-- ==== Sys2Proof/Word.lean ====
section
/-! DEFINITION. The widths of the block's values (00_scope.md R2, R3): a byte, a 16-bit word, an 11-bit
command word, the 21-bit STATUS word. Arithmetic on them is Lean's own on `BitVec`. -/

namespace Sys2Proof

/-- `BYTE_WIDTH` (R2, R3): every data operand and every emitted byte. -/
abbrev Byte := BitVec 8

/-- `VALUE_WIDTH` and `CRC_WIDTH` (R2, R3): a word16. -/
abbrev Word16 := BitVec 16

/-- `CMD_WIDTH` (R2, R25): a command word. -/
abbrev CmdWord := BitVec 11

/-- `STATUS_WIDTH` (R2, R13): the STATUS word. -/
abbrev StatusWord := BitVec 21

end Sys2Proof
end

