-- ==== Sys2Proof/Config.lean ====
section
/-! DEFINITION. The fixed parameters of the block (00_scope.md R2) and the one value the spec leaves
open at reset (log 1). -/

namespace Sys2Proof.Config

/-- `CRC_INIT`. -/
def crcInit : Word16 := 0xFFFF#16

/-- `CRC_POLY`, the bit-reflected form. -/
def crcPoly : Word16 := 0xA001#16

/-- `FC_READ`, read holding registers. -/
def fcRead : Byte := 0x03#8

/-- `FC_WRITE`, write multiple registers. -/
def fcWrite : Byte := 0x10#8

/-- `READ_COUNT_BYTES` (conflict C1): the read frame's register count is one byte. -/
def readCountBytes : Nat := 1

/-- `WRITE_MAX_REGS`. -/
def writeMaxRegs : Nat := 127

/-- `ACTION_REQUEST_REG`. -/
def actionRequestReg : Word16 := 0x03E8#16

/-- `ACTIVATE_PAYLOAD`. -/
def activatePayload : List Word16 := [0x0100#16, 0x0000#16, 0x0000#16]

/-- `DEACTIVATE_PAYLOAD`. -/
def deactivatePayload : List Word16 := [0x0000#16, 0x0000#16, 0x0000#16]

/-- `RESP_LEN`: host-side, no rule of the block reads it. -/
def respLen : Nat := 8

/-- DESIGN CHOICE (log 1), unsafe: what `sid` holds after reset. 10_state.md R11 says it holds no
value; no rule reads it before a SETSID writes it. -/
def sidAtReset : Byte := 0x00#8

end Sys2Proof.Config
end

