-- ==== Sys2Proof/Machine/Operands.lean ====
section
/-! DEFINITION. Operand forms: the fields of a command word (30_encoding.md R25, R27), the two bytes of
a 16-bit value (00_scope.md R3) and the big-endian fields of a frame (30_encoding.md R33). -/

namespace Sys2Proof.Machine

/-- `op = cmd[10:8]` (R25). -/
def opField (w : CmdWord) : BitVec 3 := w.extractLsb' 8 3

/-- `data = cmd[7:0]` (R25), taken unchanged (R27). -/
def dataField (w : CmdWord) : Byte := w.extractLsb' 0 8

/-- The command word of an op and a data byte: `op * 256 + data` (R25). -/
def cmdWord (op : BitVec 3) (data : Byte) : CmdWord := op ++ data

/-- `lo8(w) = w[7:0]` (R3). -/
def lo8 (w : Word16) : Byte := w.extractLsb' 0 8

/-- `hi8(w) = w[15:8]` (R3). -/
def hi8 (w : Word16) : Byte := w.extractLsb' 8 8

/-- How a receiver recovers a 16-bit field (R33): `(hi << 8) | lo`. -/
def ofBytes (hi lo : Byte) : Word16 := (hi.zeroExtend 16 <<< 8) ||| lo.zeroExtend 16

/-- A 16-bit frame field on the wire (R33): high byte, then low byte. -/
def bigEndian (w : Word16) : List Byte := [hi8 w, lo8 w]

/-- The values of a write frame in order, each big-endian (R32). -/
def bigEndianAll : List Word16 → List Byte
  | [] => []
  | v :: vs => bigEndian v ++ bigEndianAll vs

/-- The CRC field on the wire (R18, R30, conflict C2): low byte, then high byte. -/
def crcField (c : Word16) : List Byte := [lo8 c, hi8 c]

end Sys2Proof.Machine
end

