-- ==== Sys2Proof/Machine/Crc.lean ====
section
/-! DEFINITION. The CRC algorithm (40_crc.md R37 to R39): the byte step, the CRC of a sequence, and the
table form. The bitwise form is normative (conflict C6). -/

namespace Sys2Proof.Machine

/-- One iteration of R37: the test is on bit 0 before the shift; the shift fills with zero. -/
def crcShift (r : Word16) : Word16 :=
  if r.getLsbD 0 then (r >>> 1) ^^^ Config.crcPoly else r >>> 1

/-- `n` iterations. -/
def crcShifts : Nat → Word16 → Word16
  | 0, r => r
  | n + 1, r => crcShifts n (crcShift r)

/-- `crc_step(c, b)` (R37). -/
def crcStep (c : Word16) (b : Byte) : Word16 := crcShifts 8 (c ^^^ b.zeroExtend 16)

/-- Folding a sequence into a running CRC, in order. -/
def crcFold (c : Word16) : List Byte → Word16
  | [] => c
  | b :: bs => crcFold (crcStep c b) bs

/-- `compute_crc(s)` (R38): from 0xFFFF, no final XOR. -/
def computeCrc (s : List Byte) : Word16 := crcFold Config.crcInit s

/-- The table of R39: `T[k] = crc_step(0x0000, k)`. -/
def crcTable (k : Byte) : Word16 := crcStep 0x0000#16 k

/-- The table form of `crc_step` (R39). -/
def crcStepByTable (c : Word16) (b : Byte) : Word16 :=
  (c >>> 8) ^^^ crcTable (lo8 (c ^^^ b.zeroExtend 16))

end Sys2Proof.Machine
end

