-- ==== Sys2Proof/Syntax.lean ====
section
/-! DEFINITION. The instructions: one constructor per row of spec/opcode_table.json. -/

namespace Sys2Proof

/-- The eight command words of 30_encoding.md R26 and the two frame formats of R31 and R32. A data
field the spec ignores (R27) is kept as the operand `x`, so that decoding drops no bit (log 7). -/
inductive Instr where
  /-- NOP (41_serializer.md R42); `x` ignored. -/
  | nop (x : Byte)
  /-- SETSID d (R43): `d` the slave id. -/
  | setsid (d : Byte)
  /-- CRCINIT (40_crc.md R40); `x` ignored. -/
  | crcinit (x : Byte)
  /-- CRCFEED d (R41): `d` the byte to fold. -/
  | crcfeed (d : Byte)
  /-- SOF d (R44): `d` the function code. -/
  | sof (d : Byte)
  /-- PUT d (R45): `d` the payload byte. -/
  | put (d : Byte)
  /-- EOF (R46); `x` ignored. -/
  | eof (x : Byte)
  /-- The reserved op 7 (30_encoding.md R29, 60_exceptions.md R63); `x` ignored. -/
  | reserved (x : Byte)
  /-- READ_HOLDING (frame): layout R31, meaning R52; start register and register count. The slave id
  is the register `sid`, not an operand (42_frames.md, log 4). -/
  | readHoldingFrame (start : Word16) (count : Byte)
  /-- WRITE_MULTIPLE (frame): layout R32, meaning R53; start register and values. -/
  | writeMultipleFrame (start : Word16) (values : List Word16)
deriving DecidableEq, Repr

end Sys2Proof
end

