-- ==== Sys2Proof/Machine/State.lean ====
section
/-! DEFINITION. The state of the block (10_state.md R8 to R14), the outside world's inputs, the reasons a
step can stop, and the state at power-on (70_reset_and_hazards.md R73). -/

namespace Sys2Proof.Machine

/-- `mode` (R10): 0 = IDLE, 1 = OPEN. -/
inductive Mode where
  | idle
  | opened
deriving DecidableEq, Repr

/-- `ecause` (R12, 60_exceptions.md R63): codes 0 to 3 in this order. -/
inductive Cause where
  | none
  | reservedOp
  | badMode
  | sidUnset
deriving DecidableEq, Repr

/-- The pseudo-instructions of 42_frames.md R50 to R55, with operands that fit their fields. -/
inductive Pseudo where
  /-- CRC16 b_0, .., b_(k-1) (R50). -/
  | crc16 (bytes : List Byte)
  /-- FRAME f, p_0, .., p_(k-1) (R51). -/
  | frame (fc : Byte) (payload : List Byte)
  /-- READ_FRAME a, n (R52). -/
  | readFrame (start : Word16) (count : Byte)
  /-- WRITE_FRAME a, v_0, .., v_(n-1) (R53). -/
  | writeFrame (start : Word16) (values : List Word16)
  /-- ACTIVATE (R54). -/
  | activate
  /-- DEACTIVATE (R55). -/
  | deactivate
deriving DecidableEq, Repr

/-- What the outside world does to the block, one event at a time (log 2). -/
inductive Input where
  /-- The client's command word is accepted (10_state.md R7, 00_scope.md R6). -/
  | cmd (w : CmdWord)
  /-- The client issues a pseudo-instruction's whole expansion with nothing between (42_frames.md;
  log 3). -/
  | pseudo (p : Pseudo)
  /-- The byte channel takes a byte: `tx_valid` and `tx_ready` are both 1 (R7). -/
  | take
  /-- Reset takes effect (70_reset_and_hazards.md R73). -/
  | reset
deriving DecidableEq, Repr

/-- The state: the elements of R8, the output handshake's progress, and the inputs to come. -/
structure State where
  /-- The running CRC (R9). -/
  crc : Word16
  /-- Whether a frame is open (R10). -/
  mode : Mode
  /-- The slave identity (R11). -/
  sid : Byte
  /-- Whether `sid` has been written since reset (R11). -/
  sidValid : Bool
  /-- The sticky error flag (R12). -/
  err : Bool
  /-- The first error's cause (R12). -/
  ecause : Cause
  /-- Every byte emitted since power-on, oldest first (R14). -/
  out : List Byte
  /-- How many bytes of `out` have been transferred on `tx_data` (R7, R74; log 5). -/
  taken : Nat
  /-- The model's own field: the inputs still to come, next first (log 2). -/
  inbox : List Input
deriving DecidableEq, Repr

/-- The block has no fault: an erroring command records its cause and execution goes on (60_exceptions.md
R64, R66). No meaning raises one; the type is empty. -/
inductive Fault where
deriving DecidableEq, Repr

/-- Why an instruction has no meaning. -/
inductive Refusal where
  /-- Raised by `exec`'s arm of an instruction with no meaning yet; safe. No arm raises it. -/
  | notModelled (mnemonic : String)
  /-- Raised by the write frame with no values: 42_frames.md R57, 93_implementation_defined.md U1, "No
  model gives the source's output for it a meaning" (log 9); safe. -/
  | writeFrameWithoutValues
  /-- Raised by the write frame with more than 127 values, whose byte count does not fit 8 bits: R57,
  U1 (log 9); safe. -/
  | writeFrameTooLong
deriving DecidableEq, Repr

/-- Power-on (R73: "The same state holds at power-on"): `out` is empty (R14 counts it from power-on),
nothing is transferred, no input is listed. `sid` is the model's choice (log 1). -/
def State.reset : State where
  crc := Config.crcInit
  mode := .idle
  sid := Config.sidAtReset
  sidValid := false
  err := false
  ecause := .none
  out := []
  taken := 0
  inbox := []

end Sys2Proof.Machine
end

