-- ==== Sys2Proof/Machine/Flags.lean ====
section
/-! DEFINITION. The legality checks that set the error flag (60_exceptions.md R63, R65), the codes of
`mode` and `ecause`, and the STATUS word (10_state.md R13). -/

namespace Sys2Proof.Machine

/-- The 2-bit code of a cause (R63). -/
def Cause.code : Cause → BitVec 2
  | .none => 0#2
  | .reservedOp => 1#2
  | .badMode => 2#2
  | .sidUnset => 3#2

/-- The 1-bit code of a mode (R10). -/
def Mode.code : Mode → BitVec 1
  | .idle => 0#1
  | .opened => 1#1

/-- The check of a command legal only in IDLE (R63). -/
def checkIdle (s : State) : Option Cause :=
  match s.mode with
  | .idle => none
  | .opened => some .badMode

/-- The check of a command legal only in OPEN (R63). -/
def checkOpen (s : State) : Option Cause :=
  match s.mode with
  | .idle => some .badMode
  | .opened => none

/-- SOF's checks, the mode first (R65): BAD_MODE in OPEN, then SID_UNSET. -/
def checkSof (s : State) : Option Cause :=
  match checkIdle s with
  | some k => some k
  | none => if s.sidValid then none else some .sidUnset

/-- The STATUS word (R13): ECAUSE [20:19], ERR [18], SIDV [17], MODE [16], CRC [15:0]. -/
def State.status (s : State) : StatusWord :=
  s.ecause.code ++ (BitVec.ofBool s.err ++ (BitVec.ofBool s.sidValid ++ (s.mode.code ++ s.crc)))

/-- What STATUS may show in the cycle in which a command (R78, U9) or a reset (log 6) takes `s` to `t`: the
value before or the value after. -/
def statusDuring (after : Bool) (s t : State) : StatusWord := if after then t.status else s.status

end Sys2Proof.Machine
end

