-- ==== Sys2Proof/Machine/Ops.lean ====
section
/-! DEFINITION. The operations the meanings share: emitting bytes (00_scope.md R5), recording an error,
which is all that "taking an exception" is on this block (60_exceptions.md R64, R66), reset, and the
transfer of a byte. There is no return from an error (R67). -/

namespace Sys2Proof.Machine

/-- `Emit(b)` (R5): append a byte to the end of `out`. -/
def emit (b : Byte) (s : State) : State := { s with out := s.out ++ [b] }

/-- `record(k)` (R64): the first cause since reset is kept, `err` is sticky. -/
def record (k : Cause) (s : State) : State :=
  if s.err then s else { s with ecause := k, err := true }

/-- A command with a check: where the check raises a cause the command has no other effect (R64). -/
def guarded (check : Option Cause) (effect : State → State) (s : State) : State :=
  match check with
  | some k => record k s
  | none => effect s

/-- Fold a byte into the running CRC (R37). -/
def foldCrc (b : Byte) (s : State) : State := { s with crc := crcStep s.crc b }

/-- Reset takes effect (R73): every element but `out` and its transfer goes to its reset value; the
bytes emitted before stay and are still transferred (R74). -/
def resetBlock (s : State) : State :=
  { State.reset with out := s.out, taken := s.taken, inbox := s.inbox }

/-- `tx_valid` once the emitted bytes are shown (R7): a byte of `out` is not yet transferred. -/
def State.txWaiting (s : State) : Bool := decide (s.taken < s.out.length)

/-- `tx_data` (R7): the next byte of `out` not yet transferred; no value where there is none (log 12). -/
def State.txData (s : State) : Option Byte := s.out[s.taken]?

/-- The bytes transferred so far, in order. -/
def State.sent (s : State) : List Byte := s.out.take s.taken

/-- The channel takes the next byte (R7); with none waiting there is nothing to take (log 12). -/
def takeByte (s : State) : State :=
  if s.txWaiting then { s with taken := s.taken + 1 } else s

end Sys2Proof.Machine
end

