-- ==== Sys2Proof/Machine/CrcCommands.lean ====
section
/-! DEFINITION. The commands of the CRC generator: CRCINIT (40_crc.md R40) and CRCFEED (R41). -/

namespace Sys2Proof.Machine

/-- CRCINIT (R40) as a function of the state. -/
def crcinit (s : State) : State :=
  guarded (checkIdle s) (fun s => { s with crc := Config.crcInit }) s

/-- CRCFEED d (R41) as a function of the state. -/
def crcfeed (d : Byte) (s : State) : State := guarded (checkIdle s) (foldCrc d) s

/-- The meaning of CRCINIT; its data field is ignored (R27). -/
def execCrcinit (_x : Byte) (s : State) : Host.Outcome State Fault Refusal := .next (crcinit s)

/-- The meaning of CRCFEED. -/
def execCrcfeed (d : Byte) (s : State) : Host.Outcome State Fault Refusal := .next (crcfeed d s)

end Sys2Proof.Machine
end

