-- ==== Sys2Proof/WellFormed.lean ====
section
/-! DEFINITION. Which instructions are well formed. Every operand but one is bounded by its type; the
values of a write frame are 1 to 127 in number (42_frames.md R57). -/

namespace Sys2Proof

/-- The number of values a write frame admits (R57): 1 <= n <= 127. -/
def fitsWriteFrame (values : List Word16) : Bool :=
  decide (1 ≤ values.length) && decide (values.length ≤ Config.writeMaxRegs)

/-- Well-formedness of an instruction. -/
def Instr.wf : Instr → Bool
  | .nop _ => true
  | .setsid _ => true
  | .crcinit _ => true
  | .crcfeed _ => true
  | .sof _ => true
  | .put _ => true
  | .eof _ => true
  | .reserved _ => true
  | .readHoldingFrame _ _ => true
  | .writeMultipleFrame _ values => fitsWriteFrame values

end Sys2Proof
end

