-- ==== Sys2Proof/Decode.lean ====
section
/-! DEFINITION. The decoder and the encoder, for the two encodings of 30_encoding.md: the 11-bit command
word (R25 to R29) and the wire frame (R30 to R34). -/

namespace Sys2Proof

open Sys2Proof.Machine

/-- A code of one of the two encodings. The two never mix: a command word is an input of the block, a
frame its output (log 4). -/
inductive Code where
  | word (w : CmdWord)
  | frame (bytes : List Byte)
deriving DecidableEq, Repr

/-- Why a byte sequence is no frame of R31 or R32 (log 10). -/
inductive Reject where
  /-- Fewer than the 4 bytes every frame has (R30). -/
  | tooShort
  /-- The last two bytes are not the CRC of the others, low byte first (R30). -/
  | badCrc
  /-- The function code is neither 0x03 nor 0x10 (R35: no other layout is defined). -/
  | unknownFunctionCode
  /-- The length is not that of the function code's layout (R31, R32). -/
  | badLength
  /-- A write frame's register count is not the number of its values (R32). -/
  | countMismatch
  /-- A write frame's byte count is not twice the number of its values (R32). -/
  | byteCountMismatch
  /-- A write frame with no values (R32: 1 <= n). -/
  | noValues
deriving DecidableEq, Repr

/-! ## Command words -/

/-- R26, R28: each of the 2048 command words decodes by its op field alone. -/
def decodeWord (w : CmdWord) : Instr :=
  let d := dataField w
  match opField w with
  | 0#3 => .nop d
  | 1#3 => .setsid d
  | 2#3 => .crcinit d
  | 3#3 => .crcfeed d
  | 4#3 => .sof d
  | 5#3 => .put d
  | 6#3 => .eof d
  | _ => .reserved d

/-- The word of a command (R25, R26). A frame has no command word. -/
def encodeWord : Instr → Option CmdWord
  | .nop x => some (cmdWord 0#3 x)
  | .setsid d => some (cmdWord 1#3 d)
  | .crcinit x => some (cmdWord 2#3 x)
  | .crcfeed d => some (cmdWord 3#3 d)
  | .sof d => some (cmdWord 4#3 d)
  | .put d => some (cmdWord 5#3 d)
  | .eof x => some (cmdWord 6#3 x)
  | .reserved x => some (cmdWord 7#3 x)
  | .readHoldingFrame _ _ => none
  | .writeMultipleFrame _ _ => none

/-! ## Frames -/

/-- The payload of a read frame, offsets 2 to 4 of R31. -/
def readPayload (start : Word16) (count : Byte) : List Byte := bigEndian start ++ [count]

/-- The payload of a write frame, offsets 2 to 6 + 2n of R32. -/
def writePayload (start : Word16) (values : List Word16) : List Byte :=
  bigEndian start ++ bigEndian (BitVec.ofNat 16 values.length) ++
    [BitVec.ofNat 8 (2 * values.length)] ++ bigEndianAll values

/-- R30: a frame is its bytes followed by the CRC field of them. -/
def sealFrame (body : List Byte) : List Byte := body ++ crcField (computeCrc body)

/-- The frame of a slave id, a function code and a payload (R30). -/
def frameBytes (sid fc : Byte) (payload : List Byte) : List Byte := sealFrame (sid :: fc :: payload)

/-- The values of a write frame, read back big-endian; none for an odd number of bytes. -/
def decodeValues : List Byte → Option (List Word16)
  | [] => some []
  | [_] => none
  | hi :: lo :: rest => (decodeValues rest).map (ofBytes hi lo :: ·)

/-- The payload of a read frame read back (R31). -/
def decodeReadPayload : List Byte → Except Reject Instr
  | [ah, al, n] => .ok (.readHoldingFrame (ofBytes ah al) n)
  | _ => .error .badLength

/-- The payload of a write frame read back (R32). -/
def decodeWritePayload : List Byte → Except Reject Instr
  | ah :: al :: ch :: cl :: bc :: rest =>
    match decodeValues rest with
    | none => .error .badLength
    | some vs =>
      if (ofBytes ch cl).toNat ≠ vs.length then .error .countMismatch
      else if bc.toNat ≠ 2 * vs.length then .error .byteCountMismatch
      else if vs = [] then .error .noValues
      else .ok (.writeMultipleFrame (ofBytes ah al) vs)
  | _ => .error .badLength

/-- A frame without its CRC field: the function code picks the layout (R34). -/
def decodeBody : List Byte → Except Reject (Byte × Instr)
  | sid :: fc :: payload =>
    if fc = Config.fcRead then (decodeReadPayload payload).map (sid, ·)
    else if fc = Config.fcWrite then (decodeWritePayload payload).map (sid, ·)
    else .error .unknownFunctionCode
  | _ => .error .tooShort

/-- A byte sequence read as a frame: the slave id it names, and the frame. -/
def decodeFrame (bytes : List Byte) : Except Reject (Byte × Instr) :=
  if bytes.length < 4 then .error .tooShort
  else
    let body := bytes.take (bytes.length - 2)
    if bytes.drop (bytes.length - 2) = crcField (computeCrc body) then decodeBody body
    else .error .badCrc

/-! ## Both -/

/-- The decoder, total on every code. -/
def decode : Code → Except Reject Instr
  | .word w => .ok (decodeWord w)
  | .frame bytes => (decodeFrame bytes).map (·.2)

/-- The encoder. `sid` is the slave id a frame carries at offset 0; a command word carries none. -/
def encode (sid : Byte) : Instr → Code
  | .nop x => .word (cmdWord 0#3 x)
  | .setsid d => .word (cmdWord 1#3 d)
  | .crcinit x => .word (cmdWord 2#3 x)
  | .crcfeed d => .word (cmdWord 3#3 d)
  | .sof d => .word (cmdWord 4#3 d)
  | .put d => .word (cmdWord 5#3 d)
  | .eof x => .word (cmdWord 6#3 x)
  | .reserved x => .word (cmdWord 7#3 x)
  | .readHoldingFrame a n => .frame (frameBytes sid Config.fcRead (readPayload a n))
  | .writeMultipleFrame a vs => .frame (frameBytes sid Config.fcWrite (writePayload a vs))

/-- The length in bytes of the frame whose first bytes are given, where the layouts of R31 and R32 tell
it (R34): 7 for function code 0x03, 9 plus the byte at offset 6 for 0x10. -/
def frameLength? : List Byte → Option Nat
  | _ :: fc :: rest =>
    if fc = Config.fcRead then some 7
    else if fc = Config.fcWrite then (rest[4]?).map (fun bc => 9 + bc.toNat)
    else none
  | _ => none

/-! ## The host's numbering of a table row's bits -/

/-- The `n` bytes of a number, its least significant byte first: byte `k` of a frame is bits
`8k+7 .. 8k`. -/
def bytesOfNat : Nat → Nat → List Byte
  | 0, _ => []
  | n + 1, w => BitVec.ofNat 8 w :: bytesOfNat n (w / 256)

/-- The code that `nbits` bits `w` stand for (log 11): up to 16 bits a command word, whose bits above
bit 10 must be zero; more than 16 bits the bytes of a frame. -/
def codeOfTableWord (nbits w : Nat) : Option Code :=
  if nbits ≤ 16 then
    if w < 2048 then some (.word (BitVec.ofNat 11 w)) else none
  else some (.frame (bytesOfNat ((nbits + 7) / 8) w))

/-- The instruction the decoder reads from a table row's bits. -/
def decodeTableWord (nbits w : Nat) : Option Instr :=
  match codeOfTableWord nbits w with
  | none => none
  | some c =>
    match decode c with
    | .ok i => some i
    | .error _ => none

end Sys2Proof
end

