-- ==== Sys2Proof/Machine/Serializer.lean ====
section
/-! DEFINITION. The commands of the frame serializer (41_serializer.md R42 to R46) and the reserved op
(30_encoding.md R29, 60_exceptions.md R63). -/

namespace Sys2Proof.Machine

/-- SETSID d (R43) as a function of the state. -/
def setsid (d : Byte) (s : State) : State :=
  guarded (checkIdle s) (fun s => { s with sid := d, sidValid := true }) s

/-- SOF d past its checks (R44): the slave id and the function code go out, the CRC starts over them. -/
def openFrame (d : Byte) (s : State) : State :=
  { emit d (emit s.sid s) with
    crc := crcStep (crcStep Config.crcInit s.sid) d
    mode := .opened }

/-- SOF d (R44) as a function of the state. -/
def sof (d : Byte) (s : State) : State := guarded (checkSof s) (openFrame d) s

/-- PUT d (R45) as a function of the state. -/
def put (d : Byte) (s : State) : State := guarded (checkOpen s) (fun s => foldCrc d (emit d s)) s

/-- EOF past its check (R46): the CRC's low byte, then its high byte; `crc` is kept. -/
def closeFrame (s : State) : State :=
  { emit (hi8 s.crc) (emit (lo8 s.crc) s) with mode := .idle }

/-- EOF (R46) as a function of the state. -/
def eof (s : State) : State := guarded (checkOpen s) closeFrame s

/-- The meaning of NOP (R42): the state unchanged, whatever the data field (R27). -/
def execNop (_x : Byte) (s : State) : Host.Outcome State Fault Refusal := .next s

/-- The meaning of SETSID. -/
def execSetsid (d : Byte) (s : State) : Host.Outcome State Fault Refusal := .next (setsid d s)

/-- The meaning of SOF. -/
def execSof (d : Byte) (s : State) : Host.Outcome State Fault Refusal := .next (sof d s)

/-- The meaning of PUT. -/
def execPut (d : Byte) (s : State) : Host.Outcome State Fault Refusal := .next (put d s)

/-- The meaning of EOF; its data field is ignored (R27). -/
def execEof (_x : Byte) (s : State) : Host.Outcome State Fault Refusal := .next (eof s)

/-- The meaning of op 7 (R29, R63): RESERVED_OP in either mode, before any other check (R65). -/
def execReserved (_x : Byte) (s : State) : Host.Outcome State Fault Refusal :=
  .next (record .reservedOp s)

end Sys2Proof.Machine
end

