-- ==== Sys2Proof/Machine/Frames.lean ====
section
/-! DEFINITION. The frame pseudo-instructions (42_frames.md R50 to R57): their expansions into command
words, and their meanings, which are the meanings of those sequences (log 3). -/

namespace Sys2Proof.Machine

/-- PUT of each byte in order. -/
def putAll : List Byte → State → State
  | [], s => s
  | b :: bs, s => putAll bs (put b s)

/-- CRCFEED of each byte in order. -/
def feedAll : List Byte → State → State
  | [], s => s
  | b :: bs, s => feedAll bs (crcfeed b s)

/-- The FRAME sequence (R51): SOF f, PUT of each payload byte, EOF. -/
def frameSequence (fc : Byte) (payload : List Byte) (s : State) : State :=
  eof (putAll payload (sof fc s))

/-- The CRC16 sequence (R50): CRCINIT, CRCFEED of each byte. -/
def crcSequence (bytes : List Byte) (s : State) : State := feedAll bytes (crcinit s)

/-- The expansion of FRAME (R51) as instructions; an operand the assembler leaves out is 0 (R36). -/
def frameExpansion (fc : Byte) (payload : List Byte) : List Instr :=
  .sof fc :: (payload.map Instr.put ++ [.eof 0#8])

/-- The expansion of a pseudo-instruction into commands (R50 to R55). -/
def Pseudo.expansion : Pseudo → List Instr
  | .crc16 bytes => .crcinit 0#8 :: bytes.map Instr.crcfeed
  | .frame fc payload => frameExpansion fc payload
  | .readFrame a n => frameExpansion Config.fcRead (readPayload a n)
  | .writeFrame a vs => frameExpansion Config.fcWrite (writePayload a vs)
  | .activate =>
    frameExpansion Config.fcWrite (writePayload Config.actionRequestReg Config.activatePayload)
  | .deactivate =>
    frameExpansion Config.fcWrite (writePayload Config.actionRequestReg Config.deactivatePayload)

/-- The command words of a pseudo-instruction's expansion. -/
def Pseudo.words (p : Pseudo) : List CmdWord := p.expansion.filterMap encodeWord

/-- Whether the operands fit (R57); only the write frame has a bound its type does not give. -/
def Pseudo.fits : Pseudo → Bool
  | .writeFrame _ vs => fitsWriteFrame vs
  | .crc16 _ => true
  | .frame _ _ => true
  | .readFrame _ _ => true
  | .activate => true
  | .deactivate => true

/-- The meaning of a read frame (R52): the sequence with function code 0x03. -/
def execReadHoldingFrame (a : Word16) (n : Byte) (s : State) : Host.Outcome State Fault Refusal :=
  .next (frameSequence Config.fcRead (readPayload a n) s)

/-- The meaning of a write frame (R53): the sequence with function code 0x10. A frame whose operands do
not fit has no meaning and is refused by name (R57, U1; log 9). -/
def execWriteMultipleFrame (a : Word16) (vs : List Word16) (s : State) :
    Host.Outcome State Fault Refusal :=
  if vs.length = 0 then .refused .writeFrameWithoutValues
  else if Config.writeMaxRegs < vs.length then .refused .writeFrameTooLong
  else .next (frameSequence Config.fcWrite (writePayload a vs) s)

/-- The meaning of CRC16 (R50). -/
def execCrc16 (bytes : List Byte) (s : State) : Host.Outcome State Fault Refusal :=
  .next (crcSequence bytes s)

/-- The meaning of FRAME (R51). -/
def execFrame (fc : Byte) (payload : List Byte) (s : State) : Host.Outcome State Fault Refusal :=
  .next (frameSequence fc payload s)

/-- The meaning of ACTIVATE (R54). -/
def execActivate (s : State) : Host.Outcome State Fault Refusal :=
  execWriteMultipleFrame Config.actionRequestReg Config.activatePayload s

/-- The meaning of DEACTIVATE (R55). -/
def execDeactivate (s : State) : Host.Outcome State Fault Refusal :=
  execWriteMultipleFrame Config.actionRequestReg Config.deactivatePayload s

end Sys2Proof.Machine
end

