-- ==== Sys2Proof/Machine/Dispatch.lean ====
section
/-! DEFINITION. One arm per instruction. -/

namespace Sys2Proof.Machine

/-- What an instruction does to a state. -/
def exec (i : Instr) (s : State) : Host.Outcome State Fault Refusal :=
  match i with
  | .nop x => Sys2Proof.Machine.execNop x s
  | .setsid d => Sys2Proof.Machine.execSetsid d s
  | .crcinit x => Sys2Proof.Machine.execCrcinit x s
  | .crcfeed d => Sys2Proof.Machine.execCrcfeed d s
  | .sof d => Sys2Proof.Machine.execSof d s
  | .put d => Sys2Proof.Machine.execPut d s
  | .eof x => Sys2Proof.Machine.execEof x s
  | .reserved x => Sys2Proof.Machine.execReserved x s
  | .readHoldingFrame a n => Sys2Proof.Machine.execReadHoldingFrame a n s
  | .writeMultipleFrame a vs => Sys2Proof.Machine.execWriteMultipleFrame a vs s

end Sys2Proof.Machine
end

