-- ==== Sys2Proof/Machine/Inputs.lean ====
section
/-! DEFINITION. What each input of the outside world does to the block (10_state.md R7, 42_frames.md R50
to R55, 70_reset_and_hazards.md R73), and sequences of commands (20_memory.md R22). -/

namespace Sys2Proof.Machine

/-- A pseudo-instruction. READ_FRAME and WRITE_FRAME are the two frame rows of the opcode table. -/
def execPseudo (p : Pseudo) (s : State) : Host.Outcome State Fault Refusal :=
  match p with
  | .crc16 bytes => execCrc16 bytes s
  | .frame fc payload => execFrame fc payload s
  | .readFrame a n => exec (.readHoldingFrame a n) s
  | .writeFrame a vs => exec (.writeMultipleFrame a vs) s
  | .activate => execActivate s
  | .deactivate => execDeactivate s

/-- One input. -/
def perform (e : Input) (s : State) : Host.Outcome State Fault Refusal :=
  match e with
  | .cmd w => exec (decodeWord w) s
  | .pseudo p => execPseudo p s
  | .take => .next (takeByte s)
  | .reset => .next (resetBlock s)

/-- Instructions one after another (R22: the left fold), stopping at the first that has no next
state. -/
def execAll : List Instr → State → Host.Outcome State Fault Refusal
  | [], s => .next s
  | i :: is, s =>
    match exec i s with
    | .next t => execAll is t
    | .fault r => .fault r
    | .refused r => .refused r

/-- Inputs one after another, stopping at the first that has no next state. -/
def performAll : List Input → State → Host.Outcome State Fault Refusal
  | [], s => .next s
  | e :: es, s =>
    match perform e s with
    | .next t => performAll es t
    | .fault r => .fault r
    | .refused r => .refused r

/-- The input by which an instruction reaches the block: a command as its word, a frame as its
pseudo-instruction (log 4). -/
def inputOf : Instr → Input
  | .nop x => .cmd (cmdWord 0#3 x)
  | .setsid d => .cmd (cmdWord 1#3 d)
  | .crcinit x => .cmd (cmdWord 2#3 x)
  | .crcfeed d => .cmd (cmdWord 3#3 d)
  | .sof d => .cmd (cmdWord 4#3 d)
  | .put d => .cmd (cmdWord 5#3 d)
  | .eof x => .cmd (cmdWord 6#3 x)
  | .reserved x => .cmd (cmdWord 7#3 x)
  | .readHoldingFrame a n => .pseudo (.readFrame a n)
  | .writeMultipleFrame a vs => .pseudo (.writeFrame a vs)

end Sys2Proof.Machine
end

