-- ==== Sys2Proof/Machine/Step.lean ====
section
/-! DEFINITION. One step: the next input is taken off the list and performed (00_scope.md R6). -/

namespace Sys2Proof.Machine

/-- One step. With no input offered the block holds its state unchanged (60_exceptions.md R72). -/
def step (s : State) : Host.Outcome State Fault Refusal :=
  match s.inbox with
  | [] => .next s
  | e :: rest => perform e { s with inbox := rest }

/-- `n` steps, stopping at the first that has no next state (the host's `Core.run` of this machine; see
Laws/Run.lean). -/
def stepMany : Nat → State → Host.Outcome State Fault Refusal
  | 0, s => .next s
  | n + 1, s =>
    match step s with
    | .next t => stepMany n t
    | .fault r => .fault r
    | .refused r => .refused r

/-- The state in which the instruction of a table row's bits is the next input (log 11). Bits that are
no instruction leave the state as it is. -/
def State.withFetchWord (s : State) (nbits w : Nat) : State :=
  match decodeTableWord nbits w with
  | some i => { s with inbox := inputOf i :: s.inbox }
  | none => s

end Sys2Proof.Machine
end

