-- ==== Sys2Proof/Machine/Assembler.lean ====
section
/-! DEFINITION. The assembler (30_encoding.md R36): from a line of text to a statement with unbounded
operands, and from a statement to command words, refusing by name an operand that does not fit
(42_frames.md R57). Where R36 does not fix the text's form, log 8 says what is read. -/

namespace Sys2Proof.Machine

/-- A statement of the assembler, its operands numbers of any size. -/
inductive Statement where
  | nop
  | setsid (d : Nat)
  | crcinit
  | crcfeed (d : Nat)
  | sof (d : Nat)
  | put (d : Nat)
  | eof
  /-- `.word`: a raw command word (R36, D30). -/
  | word (w : Nat)
  | crc16 (bytes : List Nat)
  | frame (fc : Nat) (payload : List Nat)
  | readFrame (start count : Nat)
  | writeFrame (start : Nat) (values : List Nat)
  | activate
  | deactivate
deriving DecidableEq, Repr

/-- Why the assembler refuses (R57; the last four are of the text, log 8). -/
inductive AsmRefusal where
  /-- A byte operand outside 0..255. -/
  | byteDoesNotFit
  /-- A 16-bit operand outside 0..0xFFFF. -/
  | word16DoesNotFit
  /-- A raw word outside 0..0x7FF. -/
  | commandWordDoesNotFit
  /-- WRITE_FRAME with no values. -/
  | noValues
  /-- WRITE_FRAME with more than 127 values. -/
  | tooManyValues
  /-- A mnemonic R36 does not name. -/
  | unknownMnemonic
  /-- Too few or too many operands for the mnemonic. -/
  | wrongOperands
  /-- An operand that is no literal of R36. -/
  | badLiteral
deriving DecidableEq, Repr

/-- A byte operand, refused where it does not fit (R57). -/
def byteOperand (n : Nat) : Except AsmRefusal Byte :=
  if n < 256 then .ok (BitVec.ofNat 8 n) else .error .byteDoesNotFit

/-- A 16-bit operand, refused where it does not fit (R57). -/
def word16Operand (n : Nat) : Except AsmRefusal Word16 :=
  if n < 65536 then .ok (BitVec.ofNat 16 n) else .error .word16DoesNotFit

/-- A raw command word, refused where it does not fit (R25). -/
def commandWordOperand (n : Nat) : Except AsmRefusal CmdWord :=
  if n < 2048 then .ok (BitVec.ofNat 11 n) else .error .commandWordDoesNotFit

/-- Each operand of a list, the first that does not fit refused. -/
def operands {α : Type} (one : Nat → Except AsmRefusal α) : List Nat → Except AsmRefusal (List α)
  | [] => .ok []
  | n :: ns =>
    match one n with
    | .error e => .error e
    | .ok a =>
      match operands one ns with
      | .error e => .error e
      | .ok as => .ok (a :: as)

/-- The words of a command with a byte operand. -/
def assembleByte (make : Byte → Instr) (d : Nat) : Except AsmRefusal (List CmdWord) :=
  match byteOperand d with
  | .error e => .error e
  | .ok b => .ok (encodeWord (make b)).toList

/-- The values of a WRITE_FRAME: at least one, at most 127, each 16 bits (R57). -/
def writeValues (values : List Nat) : Except AsmRefusal (List Word16) :=
  if values.length = 0 then .error .noValues
  else if Config.writeMaxRegs < values.length then .error .tooManyValues
  else operands word16Operand values

/-- The command words of a statement (R36, R50 to R55), or the refusal of an operand (R57). -/
def assemble : Statement → Except AsmRefusal (List CmdWord)
  | .nop => .ok (encodeWord (.nop 0#8)).toList
  | .setsid d => assembleByte .setsid d
  | .crcinit => .ok (encodeWord (.crcinit 0#8)).toList
  | .crcfeed d => assembleByte .crcfeed d
  | .sof d => assembleByte .sof d
  | .put d => assembleByte .put d
  | .eof => .ok (encodeWord (.eof 0#8)).toList
  | .word w =>
    match commandWordOperand w with
    | .error e => .error e
    | .ok c => .ok [c]
  | .crc16 bytes =>
    match operands byteOperand bytes with
    | .error e => .error e
    | .ok bs => .ok (Pseudo.crc16 bs).words
  | .frame fc payload =>
    match byteOperand fc with
    | .error e => .error e
    | .ok f =>
      match operands byteOperand payload with
      | .error e => .error e
      | .ok ps => .ok (Pseudo.frame f ps).words
  | .readFrame start count =>
    match word16Operand start with
    | .error e => .error e
    | .ok a =>
      match byteOperand count with
      | .error e => .error e
      | .ok n => .ok (Pseudo.readFrame a n).words
  | .writeFrame start values =>
    match word16Operand start with
    | .error e => .error e
    | .ok a =>
      match writeValues values with
      | .error e => .error e
      | .ok vs => .ok (Pseudo.writeFrame a vs).words
  | .activate => .ok Pseudo.activate.words
  | .deactivate => .ok Pseudo.deactivate.words

/-! ## Text -/

/-- Everything before the first `;` (R36). -/
def stripComment : List Char → List Char
  | [] => []
  | c :: cs => if c = ';' then [] else c :: stripComment cs

/-- A space, a tab or a carriage return. -/
def isBlank (c : Char) : Bool := c = ' ' || c = '\t' || c = '\r'

/-- The text without blanks before it. -/
def trimLeft : List Char → List Char
  | [] => []
  | c :: cs => if isBlank c then trimLeft cs else c :: cs

/-- The text without blanks around it. -/
def trim (cs : List Char) : List Char := (trimLeft (trimLeft cs).reverse).reverse

/-- The text cut at every `sep`; one piece more than there are separators. -/
def splitAt (sep : Char) : List Char → List (List Char)
  | [] => [[]]
  | c :: cs =>
    match splitAt sep cs with
    | [] => [[c]]
    | piece :: rest => if c = sep then [] :: piece :: rest else (c :: piece) :: rest

/-- The value of a hexadecimal digit. -/
def hexDigit (c : Char) : Option Nat :=
  let n := c.toNat
  if 48 ≤ n ∧ n ≤ 57 then some (n - 48)
  else if 65 ≤ n ∧ n ≤ 70 then some (n - 55)
  else if 97 ≤ n ∧ n ≤ 102 then some (n - 87)
  else none

/-- The number of digits in a base, read from the left onto `acc`. -/
def digits (base acc : Nat) : List Char → Option Nat
  | [] => some acc
  | c :: cs =>
    match hexDigit c with
    | none => none
    | some d => if d < base then digits base (acc * base + d) cs else none

/-- A literal (R36): `0x` and hexadecimal digits, or decimal digits. -/
def literal : List Char → Option Nat
  | [] => none
  | ['0', 'x'] => none
  | '0' :: 'x' :: cs => digits 16 0 cs
  | cs => digits 10 0 cs

/-- All of a list's literals, or none. -/
def literals : List (List Char) → Option (List Nat)
  | [] => some []
  | p :: ps =>
    match literal (trim p), literals ps with
    | some n, some ns => some (n :: ns)
    | _, _ => none

/-- The operands of a line: nothing, or literals with commas between (R36). -/
def operandsOf (cs : List Char) : Option (List Nat) :=
  if trim cs = [] then some [] else literals (splitAt ',' cs)

/-- The mnemonic: the characters before the first blank; and the text after it. -/
def splitMnemonic : List Char → List Char × List Char
  | [] => ([], [])
  | c :: cs =>
    if isBlank c then ([], cs)
    else (c :: (splitMnemonic cs).1, (splitMnemonic cs).2)

/-- The statement of a mnemonic and its operands (R36, R50 to R55). -/
def statementOf (mnemonic : List Char) (ns : List Nat) : Except AsmRefusal Statement :=
  if mnemonic = ['N', 'O', 'P'] then
    match ns with | [] => .ok .nop | _ => .error .wrongOperands
  else if mnemonic = ['S', 'E', 'T', 'S', 'I', 'D'] then
    match ns with | [d] => .ok (.setsid d) | _ => .error .wrongOperands
  else if mnemonic = ['C', 'R', 'C', 'I', 'N', 'I', 'T'] then
    match ns with | [] => .ok .crcinit | _ => .error .wrongOperands
  else if mnemonic = ['C', 'R', 'C', 'F', 'E', 'E', 'D'] then
    match ns with | [d] => .ok (.crcfeed d) | _ => .error .wrongOperands
  else if mnemonic = ['S', 'O', 'F'] then
    match ns with | [d] => .ok (.sof d) | _ => .error .wrongOperands
  else if mnemonic = ['P', 'U', 'T'] then
    match ns with | [d] => .ok (.put d) | _ => .error .wrongOperands
  else if mnemonic = ['E', 'O', 'F'] then
    match ns with | [] => .ok .eof | _ => .error .wrongOperands
  else if mnemonic = ['.', 'w', 'o', 'r', 'd'] then
    match ns with | [w] => .ok (.word w) | _ => .error .wrongOperands
  else if mnemonic = ['C', 'R', 'C', '1', '6'] then .ok (.crc16 ns)
  else if mnemonic = ['F', 'R', 'A', 'M', 'E'] then
    match ns with | fc :: ps => .ok (.frame fc ps) | [] => .error .wrongOperands
  else if mnemonic = ['R', 'E', 'A', 'D', '_', 'F', 'R', 'A', 'M', 'E'] then
    match ns with | [a, n] => .ok (.readFrame a n) | _ => .error .wrongOperands
  else if mnemonic = ['W', 'R', 'I', 'T', 'E', '_', 'F', 'R', 'A', 'M', 'E'] then
    match ns with | a :: vs => .ok (.writeFrame a vs) | [] => .error .wrongOperands
  else if mnemonic = ['A', 'C', 'T', 'I', 'V', 'A', 'T', 'E'] then
    match ns with | [] => .ok .activate | _ => .error .wrongOperands
  else if mnemonic = ['D', 'E', 'A', 'C', 'T', 'I', 'V', 'A', 'T', 'E'] then
    match ns with | [] => .ok .deactivate | _ => .error .wrongOperands
  else .error .unknownMnemonic

/-- One line of text (R36): nothing, where it holds only blanks and a comment, or a statement. -/
def parseLine (line : List Char) : Except AsmRefusal (Option Statement) :=
  match trim (stripComment line) with
  | [] => .ok none
  | text =>
    match operandsOf (splitMnemonic text).2 with
    | none => .error .badLiteral
    | some ns =>
      match statementOf (splitMnemonic text).1 ns with
      | .error e => .error e
      | .ok st => .ok (some st)

/-- The command words of one line. -/
def assembleLine (line : List Char) : Except AsmRefusal (List CmdWord) :=
  match parseLine line with
  | .error e => .error e
  | .ok none => .ok []
  | .ok (some st) => assemble st

/-- The command words of lines in order, the first refusal refusing the text. -/
def assembleLines : List (List Char) → Except AsmRefusal (List CmdWord)
  | [] => .ok []
  | l :: ls =>
    match assembleLine l with
    | .error e => .error e
    | .ok ws =>
      match assembleLines ls with
      | .error e => .error e
      | .ok rest => .ok (ws ++ rest)

/-- A program's text, one statement a line (R36). -/
def assembleText (text : List Char) : Except AsmRefusal (List CmdWord) :=
  assembleLines (splitAt '\n' text)

end Sys2Proof.Machine
end

