-- ==== Sys2Proof/Machine/Ports.lean ====
section
/-! DEFINITION. The ports (10_state.md R7) cycle by cycle. What the spec leaves to the implementation, when
`cmd_ready` rises, when a waiting byte is shown, and which side of an acceptance or of a reset STATUS
shows, is a free argument (log 6): a statement about a cycle holds for every value of it. -/

namespace Sys2Proof.Machine

/-- The input ports in one cycle (R7). -/
structure PortsIn where
  rst : Bool
  cmd : CmdWord
  cmdValid : Bool
  txReady : Bool
deriving DecidableEq, Repr

/-- What the spec does not fix in one cycle (R7, R78, R82). -/
structure Timing where
  /-- Whether the block would accept a command. -/
  ready : Bool
  /-- Whether a waiting byte is shown on `tx_data`. -/
  shown : Bool
  /-- Whether STATUS shows the state after this cycle's acceptance (R78) or reset (DESIGN CHOICE, log 6:
  the spec does not say in which cycle a reset shows on STATUS). -/
  statusAfter : Bool
deriving DecidableEq, Repr

/-- The output ports in one cycle (R7). `tx_data` has no value while `tx_valid` is 0. -/
structure PortsOut where
  cmdReady : Bool
  txValid : Bool
  txData : Option Byte
  status : StatusWord
deriving DecidableEq, Repr

/-- `cmd_ready`: 0 while `rst` is 1 (R73), else the implementation's choice. -/
def cmdReady (t : Timing) (p : PortsIn) : Bool := !p.rst && t.ready

/-- A command is accepted where `cmd_valid` and `cmd_ready` are both 1 (R7). -/
def accepts (t : Timing) (p : PortsIn) : Bool := p.cmdValid && cmdReady t p

/-- `tx_valid`: a byte waits and is shown. -/
def txValid (t : Timing) (s : State) : Bool := t.shown && s.txWaiting

/-- A byte is transferred where `tx_valid` and `tx_ready` are both 1 (R7). -/
def transfers (t : Timing) (p : PortsIn) (s : State) : Bool := txValid t s && p.txReady

/-- The next state after one cycle: the transfer of a byte emitted before, then the reset or the
accepted command. -/
def cycle (t : Timing) (p : PortsIn) (s : State) : Host.Outcome State Fault Refusal :=
  let s₁ := if transfers t p s then { s with taken := s.taken + 1 } else s
  if p.rst then .next (resetBlock s₁)
  else if accepts t p then exec (decodeWord p.cmd) s₁
  else .next s₁

/-- The output ports in a cycle that takes `s` to `next`. STATUS is the state's own between steps
(R22); in an acceptance cycle it is either side's (R78). DESIGN CHOICE (log 6): in a cycle with `rst` = 1,
of which the spec says neither, it is either side's too. -/
def portsOut (t : Timing) (p : PortsIn) (s next : State) : PortsOut where
  cmdReady := cmdReady t p
  txValid := txValid t s
  txData := if txValid t s then s.txData else none
  status := if accepts t p || p.rst then statusDuring t.statusAfter s next else s.status

/-- The inputs, in the order the step takes them, that one cycle amounts to. -/
def cycleInputs (t : Timing) (p : PortsIn) (s : State) : List Input :=
  (if transfers t p s then [.take] else []) ++
    (if p.rst then [.reset] else if accepts t p then [.cmd p.cmd] else [])

end Sys2Proof.Machine
end

