-- ==== Sys2Proof/Safety.lean ====
section
/-! DEFINITION. What counts as a safe state and a safe run, in the terms the statements use. -/

namespace Sys2Proof.Machine

/-- ERR = 0 and MODE = 0 (70_reset_and_hazards.md R77): no error since reset and no frame open. -/
def State.clean (s : State) : Bool := !s.err && decide (s.mode = .idle)

/-- R49: while a frame is open, `out` ends in the bytes of that frame so far, which begin with `sid` and
a function code, and `crc` is the CRC of them. -/
def OpenFrameCrc (s : State) : Prop :=
  s.mode = .opened →
    ∃ earlier fc payload,
      s.out = earlier ++ (s.sid :: fc :: payload) ∧ s.crc = computeCrc (s.sid :: fc :: payload)

/-- What holds of the state between any two steps. -/
structure Inv (s : State) : Prop where
  /-- R12: `err` = 0 if and only if `ecause` = 0. -/
  errIffCause : s.err = false ↔ s.ecause = .none
  /-- R65: OPEN is only entered with `sid_valid` = 1. -/
  openNeedsSid : s.mode = .opened → s.sidValid = true
  /-- R49. -/
  openFrame : OpenFrameCrc s
  /-- R7: only emitted bytes are transferred. -/
  takenBound : s.taken ≤ s.out.length

/-- The two states are equal but for `err` and `ecause`. -/
def SameButError (s t : State) : Prop := t = { s with err := t.err, ecause := t.ecause }

/-- The two states are equal but for `sid`, which neither has been given a value (R11). -/
def SameButUnsetSid (s t : State) : Prop :=
  s.sidValid = false ∧ s.mode = .idle ∧ t = { s with sid := t.sid }

/-- A relation between states, carried over to what two steps answer: both next states, related, or the
same stop. -/
def OutcomesRelated (R : State → State → Prop) :
    Host.Outcome State Fault Refusal → Host.Outcome State Fault Refusal → Prop
  | .next s, .next t => R s t
  | .fault r, .fault r' => r = r'
  | .refused r, .refused r' => r = r'
  | _, _ => False

/-- The instruction is a command of the command port (30_encoding.md R26), not a frame. -/
def isCommand (i : Instr) : Bool := (encodeWord i).isSome

/-- The payload bytes of a command sequence: the data of its PUTs in order (41_serializer.md R47). -/
def payloadOf : List Instr → List Byte
  | [] => []
  | .put d :: is => d :: payloadOf is
  | _ :: is => payloadOf is

/-- No EOF and no frame stands in a command sequence: a frame opened before it stays open. -/
def staysOpen : List Instr → Bool
  | [] => true
  | i :: is =>
    (match i with
      | .eof _ => false
      | .readHoldingFrame _ _ => false
      | .writeMultipleFrame _ _ => false
      | _ => true) && staysOpen is

/-- The function code and the payload of a frame pseudo-instruction (42_frames.md R51 to R55); CRC16 is
none. -/
def Pseudo.frameParts : Pseudo → Option (Byte × List Byte)
  | .crc16 _ => none
  | .frame fc payload => some (fc, payload)
  | .readFrame a n => some (Config.fcRead, readPayload a n)
  | .writeFrame a vs => some (Config.fcWrite, writePayload a vs)
  | .activate =>
    some (Config.fcWrite, writePayload Config.actionRequestReg Config.activatePayload)
  | .deactivate =>
    some (Config.fcWrite, writePayload Config.actionRequestReg Config.deactivatePayload)

/-- The error a command raises in a state, as the table of 60_exceptions.md R63 lists it. -/
def raises (i : Instr) (s : State) : Option Cause :=
  match i with
  | .reserved _ => some .reservedOp
  | .setsid _ | .crcinit _ | .crcfeed _ => checkIdle s
  | .sof _ => checkSof s
  | .put _ | .eof _ => checkOpen s
  | .nop _ | .readHoldingFrame _ _ | .writeMultipleFrame _ _ => none

end Sys2Proof.Machine
end

