-- ==== Sys2Proof/Certificates/Slice0/Obligations.lean ====
section
/-! DEFINITION. The statements for the provers. Each docstring names the rule of spec/ it formalises. -/

open Sys2Proof Sys2Proof.Machine

/-! ## Encoding -/

/-- 30_encoding.md R25: `op = cmd[10:8]`, `data = cmd[7:0]`, and the word's value is `op * 256 + data`;
SOF 0x10 is 0x410. -/
def Obligations.CommandWordIsOpAndData : Prop :=
  (∀ w : CmdWord,
    (opField w).toNat = w.toNat / 256 ∧ (dataField w).toNat = w.toNat % 256 ∧
    w.toNat = (opField w).toNat * 256 + (dataField w).toNat ∧
    cmdWord (opField w) (dataField w) = w) ∧
  cmdWord 4#3 0x10#8 = 0x410#11

/-- R28: every word decodes to the row of its op field, and whether the command then raises an error
depends on `mode` and `sid_valid` alone. -/
def Obligations.EveryWordDecodesByItsOp : Prop :=
  (∀ w : CmdWord,
    decodeWord w =
      if opField w = 0#3 then .nop (dataField w)
      else if opField w = 1#3 then .setsid (dataField w)
      else if opField w = 2#3 then .crcinit (dataField w)
      else if opField w = 3#3 then .crcfeed (dataField w)
      else if opField w = 4#3 then .sof (dataField w)
      else if opField w = 5#3 then .put (dataField w)
      else if opField w = 6#3 then .eof (dataField w)
      else .reserved (dataField w)) ∧
  (∀ (w : CmdWord) (s t : State), s.mode = t.mode → s.sidValid = t.sidValid →
    raises (decodeWord w) s = raises (decodeWord w) t)

/-- Words of R36's example and of 95_test_vectors.md V6, one of each command, and a read and a
write frame of V7: a code of each of the ten rows of the opcode table. -/
def Obligations.SpecWordsDecode : Prop :=
  decodeWord 0x0AB#11 = .nop 0xAB#8 ∧ decodeWord 0x109#11 = .setsid 0x09#8 ∧
  decodeWord 0x200#11 = .crcinit 0x00#8 ∧ decodeWord 0x3FF#11 = .crcfeed 0xFF#8 ∧
  decodeWord 0x410#11 = .sof 0x10#8 ∧ decodeWord 0x5E8#11 = .put 0xE8#8 ∧
  decodeWord 0x65A#11 = .eof 0x5A#8 ∧ decodeWord 0x7DD#11 = .reserved 0xDD#8 ∧
  decode (.frame [0x09#8, 0x03#8, 0x07#8, 0xD0#8, 0x06#8, 0x94#8, 0x46#8]) =
    .ok (.readHoldingFrame 0x07D0#16 0x06#8) ∧
  decode (.frame [0x09#8, 0x10#8, 0x03#8, 0xE8#8, 0x00#8, 0x02#8, 0x04#8, 0x12#8, 0x34#8, 0xAB#8,
    0xCD#8, 0x38#8, 0xC2#8]) = .ok (.writeMultipleFrame 0x03E8#16 [0x1234#16, 0xABCD#16])

/-- Decoding the code of a well-formed instruction, with any slave id in a frame, gives it back. -/
def Obligations.DecodeOfEncode : Prop :=
  ∀ (sid : Byte) (i : Instr), i.wf = true → decode (encode sid i) = .ok i

/-- Every code that decodes is the code of the well-formed instruction it decodes to: each code has one
meaning, and a frame's CRC, counts and lengths are as R30 to R32 lay them out. -/
def Obligations.EncodeOfDecode : Prop :=
  ∀ (c : Code) (i : Instr), decode c = .ok i → i.wf = true ∧ ∃ sid, encode sid i = c

/-- R27: the data field of NOP, CRCINIT, EOF and op 7 is ignored; elsewhere it is the operand byte
unchanged, and folding it into the CRC zero-extends it. -/
def Obligations.DataFieldTakenUnchangedOrIgnored : Prop :=
  (∀ (x y : Byte) (s : State),
    exec (decodeWord (cmdWord 0#3 x)) s = exec (decodeWord (cmdWord 0#3 y)) s ∧
    exec (decodeWord (cmdWord 2#3 x)) s = exec (decodeWord (cmdWord 2#3 y)) s ∧
    exec (decodeWord (cmdWord 6#3 x)) s = exec (decodeWord (cmdWord 6#3 y)) s ∧
    exec (decodeWord (cmdWord 7#3 x)) s = exec (decodeWord (cmdWord 7#3 y)) s) ∧
  (∀ w : CmdWord,
    (opField w = 1#3 → decodeWord w = .setsid (w.setWidth 8)) ∧
    (opField w = 3#3 → decodeWord w = .crcfeed (w.setWidth 8)) ∧
    (opField w = 4#3 → decodeWord w = .sof (w.setWidth 8)) ∧
    (opField w = 5#3 → decodeWord w = .put (w.setWidth 8))) ∧
  (∀ (c : Word16) (b : Byte), crcStep c b = crcStep (c ^^^ b.setWidth 16) 0#8)

/-- R29: the words 0x700 to 0x7FF raise RESERVED_OP and do nothing else; NOP is the only no-operation;
no other word is illegal in every mode. -/
def Obligations.OnlyOpSevenIsReserved : Prop :=
  (∀ (w : CmdWord) (s : State), 0x700 ≤ w.toNat →
    exec (decodeWord w) s =
      .next { s with err := true, ecause := if s.err then s.ecause else .reservedOp }) ∧
  (∀ (x : Byte) (s : State),
    exec (.reserved x) s =
      .next { s with err := true, ecause := if s.err then s.ecause else .reservedOp }) ∧
  (∀ w : CmdWord, (∀ s, exec (decodeWord w) s = .next s) ↔ w.toNat < 0x100) ∧
  (∀ w : CmdWord, w.toNat < 0x700 →
    ∃ s t, s.err = false ∧ exec (decodeWord w) s = .next t ∧ t.err = false)

/-- R33: a 16-bit field goes out as `(w >> 8, w & 0xFF)` and `(hi << 8) | lo` recovers it; the CRC field
goes out the other way round. -/
def Obligations.SixteenBitFieldsAreBigEndianButTheCrc : Prop :=
  ∀ w : Word16,
    bigEndian w = [(w >>> 8).setWidth 8, (w &&& 0x00FF#16).setWidth 8] ∧
    crcField w = [(w &&& 0x00FF#16).setWidth 8, (w >>> 8).setWidth 8] ∧
    ofBytes ((w >>> 8).setWidth 8) ((w &&& 0x00FF#16).setWidth 8) = w

/-- R34: the length of a read frame is 7; the length of a write frame is 9 plus its byte at offset 6; so
the length can be told from the bytes. -/
def Obligations.FrameLengthIsToldByItsBytes : Prop :=
  ∀ (sid : Byte) (i : Instr) (bytes : List Byte), i.wf = true → encode sid i = .frame bytes →
    frameLength? bytes = some bytes.length ∧
    (∀ a n, i = .readHoldingFrame a n → bytes.length = 7 ∧ bytes[1]? = some 0x03#8) ∧
    (∀ a vs, i = .writeMultipleFrame a vs →
      bytes.length = 9 + 2 * vs.length ∧ bytes[1]? = some 0x10#8 ∧
      bytes[6]? = some (BitVec.ofNat 8 (2 * vs.length)) ∧
      (BitVec.ofNat 8 (2 * vs.length)).toNat = 2 * vs.length)

/-- R36: the examples, the operandless commands assembled with data 0, the raw word, the comment. -/
def Obligations.AssemblerExamples : Prop :=
  assembleLine "SOF 0x10".toList = .ok [0x410#11] ∧
  assembleLine "PUT 0xE8".toList = .ok [0x5E8#11] ∧
  assembleLine "EOF".toList = .ok [0x600#11] ∧
  assembleLine "SETSID 9".toList = .ok [0x109#11] ∧
  assembleLine "NOP".toList = .ok [0x000#11] ∧
  assembleLine "CRCINIT ; no operand".toList = .ok [0x200#11] ∧
  assembleLine "CRCFEED 0x31".toList = .ok [0x331#11] ∧
  assembleLine ".word 0x7dd".toList = .ok [0x7DD#11] ∧
  assembleLine "READ_FRAME 0x07D0, 6".toList = .ok [0x403#11, 0x507#11, 0x5D0#11, 0x506#11, 0x600#11]

/-- R57: the assembler refuses a pseudo-instruction whose operand does not fit, and no other; the command
words of a broken expansion issued by hand emit exactly the bytes issued, whatever they are. -/
def Obligations.OperandsThatDoNotFitAreRefused : Prop :=
  (∀ bs : List Nat, (∃ e, assemble (.crc16 bs) = .error e) ↔ ∃ b ∈ bs, 255 < b) ∧
  (∀ (f : Nat) (ps : List Nat),
    (∃ e, assemble (.frame f ps) = .error e) ↔ 255 < f ∨ ∃ p ∈ ps, 255 < p) ∧
  (∀ a n : Nat, (∃ e, assemble (.readFrame a n) = .error e) ↔ 0xFFFF < a ∨ 0xFF < n) ∧
  (∀ (a : Nat) (vs : List Nat),
    (∃ e, assemble (.writeFrame a vs) = .error e) ↔
      0xFFFF < a ∨ (∃ v ∈ vs, 0xFFFF < v) ∨ vs.length = 0 ∨ 127 < vs.length) ∧
  (∀ e, assemble .activate ≠ .error e ∧ assemble .deactivate ≠ .error e) ∧
  (∀ (f x : Byte) (ps : List Byte) (s : State), s.mode = .idle → s.sidValid = true →
    ∃ t, execAll (.sof f :: (ps.map .put ++ [.eof x])) s = .next t ∧
      t.out = s.out ++ ([s.sid, f] ++ ps ++ crcField (computeCrc ([s.sid, f] ++ ps))))

/-- 42_frames.md R50 to R55 as the assembler sees them: where the operands fit, the words are the
expansion the rule lists. -/
def Obligations.AssemblerGivesTheExpansions : Prop :=
  (∀ bs : List Byte,
    assemble (.crc16 (bs.map BitVec.toNat)) = .ok (0x200#11 :: bs.map (cmdWord 3#3))) ∧
  (∀ (f : Byte) (ps : List Byte),
    assemble (.frame f.toNat (ps.map BitVec.toNat)) =
      .ok (cmdWord 4#3 f :: (ps.map (cmdWord 5#3) ++ [0x600#11]))) ∧
  (∀ (a : Word16) (n : Byte),
    assemble (.readFrame a.toNat n.toNat) =
      .ok [0x403#11, cmdWord 5#3 (hi8 a), cmdWord 5#3 (lo8 a), cmdWord 5#3 n, 0x600#11]) ∧
  (∀ (a : Word16) (vs : List Word16), 1 ≤ vs.length → vs.length ≤ 127 →
    assemble (.writeFrame a.toNat (vs.map BitVec.toNat)) =
      .ok ([0x410#11, cmdWord 5#3 (hi8 a), cmdWord 5#3 (lo8 a),
        0x500#11, cmdWord 5#3 (BitVec.ofNat 8 vs.length),
        cmdWord 5#3 (BitVec.ofNat 8 (2 * vs.length))] ++
        vs.flatMap (fun v => [cmdWord 5#3 (hi8 v), cmdWord 5#3 (lo8 v)]) ++ [0x600#11])) ∧
  assemble .activate =
    .ok [0x410#11, 0x503#11, 0x5E8#11, 0x500#11, 0x503#11, 0x506#11, 0x501#11, 0x500#11, 0x500#11,
      0x500#11, 0x500#11, 0x500#11, 0x600#11] ∧
  assemble .deactivate =
    .ok [0x410#11, 0x503#11, 0x5E8#11, 0x500#11, 0x503#11, 0x506#11, 0x500#11, 0x500#11, 0x500#11,
      0x500#11, 0x500#11, 0x500#11, 0x600#11]

/-! ## The CRC -/

/-- 40_crc.md R37: XOR into the low byte, then 8 times: test bit 0, shift right, XOR 0xA001 where it was
set; and the worked example. -/
def Obligations.CrcStepIsEightShiftsAndXors : Prop :=
  (∀ (c : Word16) (b : Byte),
    crcStep c b =
      (fun r : Word16 => if r.getLsbD 0 then (r >>> 1) ^^^ 0xA001#16 else r >>> 1)^[8]
        (c ^^^ b.setWidth 16)) ∧
  crcStep 0xFFFF#16 0x09#8 = 0x467F#16

/-- R38: `compute_crc` is the left fold of `crc_step` from 0xFFFF; the empty sequence gives 0xFFFF; and
the worked example. -/
def Obligations.ComputeCrcIsTheLeftFold : Prop :=
  (∀ s : List Byte, computeCrc s = s.foldl crcStep 0xFFFF#16) ∧ computeCrc [] = 0xFFFF#16 ∧
  computeCrc [0x09#8, 0x03#8, 0x07#8, 0xD0#8, 0x06#8] = 0x4694#16

/-- R39: the table form equals the bitwise form, the table being `crc_step(0, k)`. -/
def Obligations.TableFormEqualsBitwiseForm : Prop :=
  ∀ (c : Word16) (b : Byte),
    crcStep c b = (c >>> 8) ^^^ crcStep 0x0000#16 ((c ^^^ b.setWidth 16).setWidth 8)

/-- 42_frames.md R62: the CRC of any whole frame is 0, for a frame of the FRAME pseudo-instruction and
for any SOF .. EOF sequence. -/
def Obligations.CrcOfAWholeFrameIsZero : Prop :=
  (∀ (f : Byte) (ps : List Byte) (s : State), s.mode = .idle → s.sidValid = true →
    ∃ t F, perform (.pseudo (.frame f ps)) s = .next t ∧ t.out = s.out ++ F ∧
      computeCrc F = 0x0000#16) ∧
  (∀ (f x : Byte) (is : List Instr) (s : State), s.mode = .idle → s.sidValid = true →
    staysOpen is = true →
    ∃ t F, execAll (.sof f :: (is ++ [.eof x])) s = .next t ∧ t.out = s.out ++ F ∧
      computeCrc F = 0x0000#16)

/-! ## The commands -/

/-- 41_serializer.md R42. -/
def Obligations.NopDoesNothing : Prop :=
  ∀ (x : Byte) (s : State),
    decodeWord (cmdWord 0#3 x) = .nop x ∧ (cmdWord 0#3 x).toNat = x.toNat ∧ exec (.nop x) s = .next s

/-- R43: SETSID's encoding, effect, error, corner cases and example. -/
def Obligations.SetsidSetsTheSlaveId : Prop :=
  (∀ d : Byte, decodeWord (cmdWord 1#3 d) = .setsid d ∧ (cmdWord 1#3 d).toNat = 0x100 + d.toNat) ∧
  (∀ (d : Byte) (s : State), s.mode = .idle →
    exec (.setsid d) s = .next { s with sid := d, sidValid := true }) ∧
  (∀ (d : Byte) (s : State), s.mode = .opened →
    exec (.setsid d) s =
      .next { s with err := true, ecause := if s.err then s.ecause else .badMode }) ∧
  (∀ s : State, s.mode = .idle → s.sidValid = true → exec (.setsid s.sid) s = .next s) ∧
  (∀ s t : State, exec (.setsid 0x09#8) (resetBlock s) = .next t →
    t.sid = 0x09#8 ∧ t.status.getLsbD 17 = true)

/-- 40_crc.md R40: CRCINIT's encoding, effect, error, corner case and example. -/
def Obligations.CrcinitResetsTheCrc : Prop :=
  (∀ x : Byte, decodeWord (cmdWord 2#3 x) = .crcinit x ∧ (cmdWord 2#3 x).toNat = 0x200 + x.toNat) ∧
  (∀ (x : Byte) (s : State), s.mode = .idle →
    exec (.crcinit x) s = .next { s with crc := 0xFFFF#16 }) ∧
  (∀ (x : Byte) (s : State), s.mode = .opened →
    exec (.crcinit x) s =
      .next { s with err := true, ecause := if s.err then s.ecause else .badMode }) ∧
  (∀ (x : Byte) (s : State), s.mode = .idle → s.crc = 0xFFFF#16 → exec (.crcinit x) s = .next s) ∧
  (∀ (x : Byte) (s t : State), s.crc = 0x4694#16 → s.mode = .idle → exec (.crcinit x) s = .next t →
    t.crc = 0xFFFF#16 ∧ t.status.extractLsb' 0 16 = 0xFFFF#16)

/-- R41: CRCFEED's encoding, effect, error, example, and a CRCINIT followed by CRCFEEDs computing the CRC
of their bytes. -/
def Obligations.CrcfeedFoldsOneByte : Prop :=
  (∀ d : Byte, decodeWord (cmdWord 3#3 d) = .crcfeed d ∧ (cmdWord 3#3 d).toNat = 0x300 + d.toNat) ∧
  (∀ (d : Byte) (s : State), s.mode = .idle →
    exec (.crcfeed d) s = .next { s with crc := crcStep s.crc d }) ∧
  (∀ (d : Byte) (s : State), s.mode = .opened →
    exec (.crcfeed d) s =
      .next { s with err := true, ecause := if s.err then s.ecause else .badMode }) ∧
  (∀ (x : Byte) (ds : List Byte) (s : State), s.mode = .idle →
    ∃ t, execAll (.crcinit x :: ds.map .crcfeed) s = .next t ∧
      t = { s with crc := computeCrc ds } ∧ t.status.extractLsb' 0 16 = computeCrc ds) ∧
  (∀ s : State, s.mode = .idle → s.crc = 0xFFFF#16 →
    exec (.crcfeed 0x00#8) s = .next { s with crc := 0x40BF#16 })

/-- 41_serializer.md R44: SOF's encoding, effect, errors and their order, independence of the old `crc`,
and example. -/
def Obligations.SofStartsAFrame : Prop :=
  (∀ d : Byte, decodeWord (cmdWord 4#3 d) = .sof d ∧ (cmdWord 4#3 d).toNat = 0x400 + d.toNat) ∧
  (∀ (d : Byte) (s : State), s.mode = .idle → s.sidValid = true →
    exec (.sof d) s =
      .next { s with
        out := s.out ++ [s.sid, d]
        crc := crcStep (crcStep 0xFFFF#16 s.sid) d
        mode := .opened }) ∧
  (∀ (d : Byte) (s : State), s.mode = .opened →
    exec (.sof d) s =
      .next { s with err := true, ecause := if s.err then s.ecause else .badMode }) ∧
  (∀ (d : Byte) (s : State), s.mode = .idle → s.sidValid = false →
    exec (.sof d) s =
      .next { s with err := true, ecause := if s.err then s.ecause else .sidUnset }) ∧
  (∀ (d : Byte) (c : Word16) (s : State), s.mode = .idle → s.sidValid = true →
    exec (.sof d) { s with crc := c } = exec (.sof d) s) ∧
  (∀ (d : Byte) (s t : State), s.mode = .idle → s.sidValid = true → exec (.sof d) s = .next t →
    t.crc = computeCrc [s.sid, d]) ∧
  (∀ s : State, s.mode = .idle → s.sidValid = true → s.sid = 0x09#8 →
    exec (.sof 0x10#8) s =
      .next { s with out := s.out ++ [0x09#8, 0x10#8], crc := 0x2C06#16, mode := .opened })

/-- R45: PUT's encoding, effect, error and example. -/
def Obligations.PutAppendsOneByte : Prop :=
  (∀ d : Byte, decodeWord (cmdWord 5#3 d) = .put d ∧ (cmdWord 5#3 d).toNat = 0x500 + d.toNat) ∧
  (∀ (d : Byte) (s : State), s.mode = .opened →
    exec (.put d) s = .next { s with out := s.out ++ [d], crc := crcStep s.crc d }) ∧
  (∀ (d : Byte) (s : State), s.mode = .idle →
    exec (.put d) s =
      .next { s with err := true, ecause := if s.err then s.ecause else .badMode }) ∧
  (∀ s : State, s.mode = .opened → s.crc = 0x2C06#16 →
    exec (.put 0x03#8) s = .next { s with out := s.out ++ [0x03#8], crc := 0x03EC#16 })

/-- R46: EOF's encoding, effect, error, the CRC left in STATUS until a CRCINIT, CRCFEED or SOF, the 4-byte
frame and the example. -/
def Obligations.EofClosesTheFrame : Prop :=
  (∀ x : Byte, decodeWord (cmdWord 6#3 x) = .eof x ∧ (cmdWord 6#3 x).toNat = 0x600 + x.toNat) ∧
  (∀ (x : Byte) (s : State), s.mode = .opened →
    exec (.eof x) s = .next { s with out := s.out ++ [lo8 s.crc, hi8 s.crc], mode := .idle }) ∧
  (∀ (x : Byte) (s : State), s.mode = .idle →
    exec (.eof x) s =
      .next { s with err := true, ecause := if s.err then s.ecause else .badMode }) ∧
  (∀ (x : Byte) (s t : State), exec (.eof x) s = .next t →
    t.status.extractLsb' 0 16 = s.crc) ∧
  (∀ (i : Instr) (s t : State), isCommand i = true → s.mode = .idle →
    (∀ d, i ≠ .crcinit d ∧ i ≠ .crcfeed d ∧ i ≠ .sof d) → exec i s = .next t →
    t.mode = .idle ∧ t.status.extractLsb' 0 16 = s.status.extractLsb' 0 16) ∧
  (∀ (f x : Byte) (s : State), s.mode = .idle → s.sidValid = true →
    ∃ t, execAll [.sof f, .eof x] s = .next t ∧
      t.out = s.out ++ [s.sid, f, lo8 (computeCrc [s.sid, f]), hi8 (computeCrc [s.sid, f])]) ∧
  (∀ (x : Byte) (s : State), s.mode = .opened → s.crc = 0x4694#16 →
    exec (.eof x) s = .next { s with out := s.out ++ [0x94#8, 0x46#8], mode := .idle })

/-- Every command of the command port answers a next state in every state, and leaves the inputs to come
and the transferred bytes alone (20_memory.md R21; 60_exceptions.md R64: execution always goes on). -/
def Obligations.EveryCommandCompletes : Prop :=
  ∀ (i : Instr) (s : State), isCommand i = true →
    ∃ t, exec i s = .next t ∧ t.inbox = s.inbox ∧ t.taken = s.taken

/-- 10_state.md R15: what each command writes (the rest is unchanged, and an erroring command writes only
`err` and `ecause`), and what it does not read: a change of it changes nothing else, and an element the
table lets the command write without reading it gets the same new value. -/
def Obligations.CommandsReadAndWriteOnlyTheirRow : Prop :=
  (∀ (i : Instr) (s t : State), isCommand i = true → exec i s = .next t →
    t.taken = s.taken ∧ t.inbox = s.inbox ∧
    (raises i s ≠ none → t = { s with err := t.err, ecause := t.ecause }) ∧
    (raises i s = none → t.err = s.err ∧ t.ecause = s.ecause) ∧
    ((∀ d, i ≠ .setsid d) → t.sid = s.sid ∧ t.sidValid = s.sidValid) ∧
    ((∀ d, i ≠ .sof d ∧ i ≠ .eof d) → t.mode = s.mode) ∧
    ((∀ d, i ≠ .crcinit d ∧ i ≠ .crcfeed d ∧ i ≠ .sof d ∧ i ≠ .put d) → t.crc = s.crc) ∧
    ((∀ d, i ≠ .sof d ∧ i ≠ .put d ∧ i ≠ .eof d) → t.out = s.out) ∧
    ((∃ d, i = .put d) → raises i s = none → t.out.length = s.out.length + 1) ∧
    ((∃ d, i = .sof d ∨ i = .eof d) → raises i s = none → t.out.length = s.out.length + 2)) ∧
  (∀ (i : Instr) (c : Word16) (s t u : State), isCommand i = true →
    (∀ d, i ≠ .crcfeed d ∧ i ≠ .put d ∧ i ≠ .eof d) →
    exec i s = .next t → exec i { s with crc := c } = .next u → { u with crc := t.crc } = t ∧
      ((∃ d, i = .crcinit d ∨ i = .sof d) → raises i s = none → u.crc = t.crc)) ∧
  (∀ (i : Instr) (m : Mode) (s t u : State), isCommand i = true →
    (∃ d, i = .nop d ∨ i = .reserved d) →
    exec i s = .next t → exec i { s with mode := m } = .next u → { u with mode := t.mode } = t) ∧
  (∀ (i : Instr) (v : Byte) (b : Bool) (s t u : State), isCommand i = true → (∀ d, i ≠ .sof d) →
    exec i s = .next t → exec i { s with sid := v, sidValid := b } = .next u →
    { u with sid := t.sid, sidValid := t.sidValid } = t ∧
      ((∃ d, i = .setsid d) → raises i s = none → u.sid = t.sid ∧ u.sidValid = t.sidValid)) ∧
  (∀ (i : Instr) (e : Bool) (k : Cause) (s t u : State), isCommand i = true →
    exec i s = .next t → exec i { s with err := e, ecause := k } = .next u →
    { u with err := t.err, ecause := t.ecause } = t) ∧
  (∀ (i : Instr) (o : List Byte) (s t u : State), isCommand i = true →
    exec i s = .next t → exec i { s with out := o } = .next u →
    { u with out := t.out } = t ∧ ∃ bytes, t.out = s.out ++ bytes ∧ u.out = o ++ bytes)

/-! ## Errors -/

/-- 60_exceptions.md R63: the three errors, their codes, and exactly when each is raised. -/
def Obligations.ErrorsAreExactlyTheTable : Prop :=
  (Cause.none.code = 0#2 ∧ Cause.reservedOp.code = 1#2 ∧ Cause.badMode.code = 2#2 ∧
    Cause.sidUnset.code = 3#2) ∧
  (∀ (i : Instr) (s : State), isCommand i = true → s.err = false → s.ecause = .none →
    ∃ t, exec i s = .next t ∧
      (t.ecause = .reservedOp ↔ ∃ x, i = .reserved x) ∧
      (t.ecause = .badMode ↔
        (s.mode = .opened ∧ ∃ x, i = .setsid x ∨ i = .crcinit x ∨ i = .crcfeed x ∨ i = .sof x) ∨
        (s.mode = .idle ∧ ∃ x, i = .put x ∨ i = .eof x)) ∧
      (t.ecause = .sidUnset ↔ s.mode = .idle ∧ s.sidValid = false ∧ ∃ x, i = .sof x) ∧
      (t.err = false ↔ t.ecause = .none) ∧
      (t.ecause ≠ .none → t = { s with err := true, ecause := t.ecause }))

/-- R64: an erroring command has no other effect, the first cause is kept, and the commands after it run
as if it had been a NOP, but for `err` and `ecause`. -/
def Obligations.ErrorIsRecordedAndExecutionGoesOn : Prop :=
  (∀ (i : Instr) (k : Cause) (s : State), raises i s = some k →
    exec i s = .next { s with err := true, ecause := if s.err then s.ecause else k }) ∧
  (∀ (i : Instr) (k : Cause) (x : Byte) (is : List Instr) (s : State), raises i s = some k →
    OutcomesRelated SameButError (execAll (i :: is) s) (execAll (.nop x :: is) s))

/-- R65: RESERVED_OP first, BAD_MODE before SID_UNSET; and the combination OPEN with `sid_valid` = 0
cannot arise: it does not hold at power-on and no step enters it. -/
def Obligations.ErrorPriority : Prop :=
  (∀ (d : Byte) (s : State), raises (.reserved d) s = some .reservedOp ∧
    (s.mode = .opened → raises (.sof d) s = some .badMode) ∧
    (s.mode = .idle → s.sidValid = false → raises (.sof d) s = some .sidUnset) ∧
    (s.mode = .idle → s.sidValid = true → raises (.sof d) s = none)) ∧
  (∀ (i : Instr) (k : Cause) (s : State), raises i s = some k →
    exec i s = .next { s with err := true, ecause := if s.err then s.ecause else k }) ∧
  ¬ (State.reset.mode = .opened ∧ State.reset.sidValid = false) ∧
  (∀ s t : State, ¬ (s.mode = .opened ∧ s.sidValid = false) → step s = .next t →
    ¬ (t.mode = .opened ∧ t.sidValid = false))

/-- R67: no step but a reset clears `err` or changes a recorded cause; a reset clears both. -/
def Obligations.OnlyResetClearsAnError : Prop :=
  (∀ s t : State, step s = .next t → s.err = true → s.inbox.head? ≠ some .reset →
    t.err = true ∧ t.ecause = s.ecause) ∧
  (∀ (s t : State) (rest : List Input), s.inbox = .reset :: rest → step s = .next t →
    t.err = false ∧ t.ecause = .none)

/-- 70_reset_and_hazards.md R77: where commands end with ERR = 0, every one of them executed by its rule:
none raised an error. -/
def Obligations.ErrZeroMeansEveryCommandRan : Prop :=
  ∀ (pre post : List Instr) (i : Instr) (s u t : State),
    (∀ j ∈ pre ++ i :: post, isCommand j = true) →
    execAll pre s = .next u → execAll (pre ++ i :: post) s = .next t → t.clean = true →
    raises i u = none ∧ t.mode = .idle

/-! ## State, STATUS, reset -/

/-- 10_state.md R10: `mode` is written only by SOF, to OPEN, by EOF, to IDLE, and by reset. -/
def Obligations.ModeIsWrittenOnlyBySofEofAndReset : Prop :=
  (∀ (i : Instr) (s t : State), isCommand i = true → exec i s = .next t → t.mode ≠ s.mode →
    (t.mode = .opened ∧ ∃ d, i = .sof d) ∨ (t.mode = .idle ∧ ∃ x, i = .eof x)) ∧
  (∀ s t : State, step s = .next t → t.mode ≠ s.mode →
    (∃ w rest, s.inbox = .cmd w :: rest ∧
      ((t.mode = .opened ∧ ∃ d, decodeWord w = .sof d) ∨
        (t.mode = .idle ∧ ∃ x, decodeWord w = .eof x))) ∨
    (∃ p rest, s.inbox = .pseudo p :: rest ∧ t.mode = .idle) ∨
    (∃ rest, s.inbox = .reset :: rest ∧ t.mode = .idle))

/-- R11: while `sid_valid` = 0 the contents of `sid` cannot be observed: not in STATUS, not on the output
stream, not in any step's outcome. So nothing rests on the model's choice of its reset value (log 1). -/
def Obligations.UnsetSlaveIdIsNeverRead : Prop :=
  ∀ s t : State, SameButUnsetSid s t →
    s.status = t.status ∧
    OutcomesRelated (fun s' t' => s' = t' ∨ SameButUnsetSid s' t') (step s) (step t)

/-- R13: the layout of STATUS, its value after reset, and that a read of it between two steps, in a cycle
that neither accepts a command nor resets, sees the state. -/
def Obligations.StatusLayout : Prop :=
  (∀ s : State,
    s.status.extractLsb' 0 16 = s.crc ∧
    (s.status.getLsbD 16 = true ↔ s.mode = .opened) ∧
    s.status.getLsbD 17 = s.sidValid ∧ s.status.getLsbD 18 = s.err ∧
    s.status.extractLsb' 19 2 = s.ecause.code) ∧
  (State.reset.status = 0x00FFFF#21 ∧ ∀ s : State, (resetBlock s).status = 0x00FFFF#21) ∧
  (∀ (t : Timing) (p : PortsIn) (s next : State), accepts t p = false → p.rst = false →
    (portsOut t p s next).status = s.status)

/-- R14: a step appends to `out` and changes nothing of it before; at power-on it is empty; a reset does
not shorten it. -/
def Obligations.OutOnlyGrows : Prop :=
  State.reset.out = [] ∧
  (∀ s t : State, step s = .next t → s.out <+: t.out) ∧
  (∀ s : State, (resetBlock s).out = s.out) ∧
  (∀ (i : Instr) (s t : State), exec i s = .next t → ∃ bytes, t.out = s.out ++ bytes)

/-- R73: the state after reset, at power-on and at the reset event, and no command accepted while `rst` is
1. `sid` is left out: the spec gives it no value (log 1). -/
def Obligations.ResetState : Prop :=
  (State.reset.crc = 0xFFFF#16 ∧ State.reset.mode = .idle ∧ State.reset.sidValid = false ∧
    State.reset.err = false ∧ State.reset.ecause = .none ∧ State.reset.status = 0x00FFFF#21) ∧
  (∀ (s : State) (rest : List Input), s.inbox = .reset :: rest →
    ∃ t, step s = .next t ∧ t.crc = 0xFFFF#16 ∧ t.mode = .idle ∧ t.sidValid = false ∧
      t.err = false ∧ t.ecause = .none ∧ t.status = 0x00FFFF#21 ∧ t.out = s.out) ∧
  (∀ (t : Timing) (p : PortsIn) (s next : State), p.rst = true →
    (portsOut t p s next).cmdReady = false ∧ accepts t p = false)

/-- R74: bytes emitted before a reset stay, those not yet transferred are transferred in order before any
later one, and a frame left open is followed directly by the next frame. -/
def Obligations.ResetKeepsEmittedBytes : Prop :=
  (∀ (s t : State) (es : List Input), s.taken ≤ s.out.length →
    performAll (.reset :: es) s = .next t →
    s.out <+: t.out ∧ s.sent <+: t.sent ∧ t.sent <+: t.out) ∧
  (∀ (s : State) (v f : Byte) (ps : List Byte), s.mode = .opened →
    ∃ t, performAll [.reset, .cmd (cmdWord 1#3 v), .pseudo (.frame f ps)] s = .next t ∧
      t.out = s.out ++ frameBytes v f ps)

/-- R75: after reset, SOF raises SID_UNSET until SETSID; after it a frame works; CRC16 works without
it. -/
def Obligations.SetsidComesBeforeTheFirstFrame : Prop :=
  ∀ (s : State) (v f : Byte) (ps bs : List Byte),
    exec (.sof f) (resetBlock s) =
      .next { resetBlock s with err := true, ecause := .sidUnset } ∧
    (∃ t, performAll [.cmd (cmdWord 1#3 v), .pseudo (.frame f ps)] (resetBlock s) = .next t ∧
      t.out = s.out ++ frameBytes v f ps ∧ t.clean = true) ∧
    (resetBlock s).crc = 0xFFFF#16 ∧
    perform (.pseudo (.crc16 bs)) (resetBlock s) =
      .next { resetBlock s with crc := computeCrc bs }

/-- R12, R49, R65, R7: the invariant holds at power-on. -/
def Obligations.InvariantAtReset : Prop := Inv State.reset

/-- R12, R49, R65, R7: every step keeps the invariant. -/
def Obligations.StepKeepsInvariant : Prop :=
  ∀ s t : State, Inv s → step s = .next t → Inv t

/-! ## Steps, ports, ordering -/

/-- A step takes the next input and runs the decoded instruction (00_scope.md R6); with none it changes
nothing (60_exceptions.md R72). That the inputs to come are a list in State, and that a frame is issued
as one input, are the model's choices (log 2, log 3). -/
def Obligations.StepRunsTheDecodedInstruction : Prop :=
  (∀ (s : State) (w : CmdWord) (rest : List Input), s.inbox = .cmd w :: rest →
    step s = exec (decodeWord w) { s with inbox := rest }) ∧
  (∀ (s : State) (i : Instr) (rest : List Input), s.inbox = inputOf i :: rest →
    step s = exec i { s with inbox := rest }) ∧
  (∀ s : State, s.inbox = [] → step s = .next s)

/-- The host's placement of a table row's bits: the very next step runs that instruction. The placement is
the model's choice (log 11). -/
def Obligations.FetchWordRunsTheInstruction : Prop :=
  ∀ (s : State) (nbits w : Nat) (i : Instr), decodeTableWord nbits w = some i →
    step (s.withFetchWord nbits w) = exec i s

/-- 20_memory.md R22: the state after n accepted commands is the left fold of the step over them, and is
always reached. -/
def Obligations.CommandsAreTheLeftFoldOfTheStep : Prop :=
  ∀ (ws : List CmdWord) (rest : List Input) (s : State), s.inbox = ws.map .cmd ++ rest →
    stepMany ws.length s = execAll (ws.map decodeWord) { s with inbox := rest } ∧
    ∃ t, stepMany ws.length s = .next t ∧ t.inbox = rest

/-- 10_state.md R7: a cycle of the ports is the steps of its inputs, whatever the timing: the transfer,
then the reset or the accepted command. The order inside one cycle is the model's choice (log 6). -/
def Obligations.CycleIsTheStepsOfItsInputs : Prop :=
  ∀ (t : Timing) (p : PortsIn) (s : State),
    stepMany (cycleInputs t p s).length
      { s with inbox := cycleInputs t p s ++ s.inbox } = cycle t p s

/-- R7: bytes leave in the order of `out`, one at a time, none dropped and none repeated: a transfer
appends exactly the byte shown, and no other step changes what has been transferred. At the ports (log 6):
`tx_data` is the next byte of `out` not yet transferred while `tx_valid` is 1, a cycle that transfers
appends exactly it, and a cycle that does not transfers nothing. The count of transferred bytes is
log 5's. -/
def Obligations.BytesLeaveInOrder : Prop :=
  (∀ (s t : State), Inv s → step s = .next t →
    t.sent = s.sent ∨
      ∃ b rest, s.inbox = .take :: rest ∧ s.txData = some b ∧ t.sent = s.sent ++ [b]) ∧
  (∀ (s : State) (rest : List Input), s.inbox = .take :: rest → s.taken < s.out.length →
    ∃ b t, s.txData = some b ∧ step s = .next t ∧ t.sent = s.sent ++ [b] ∧ t.out = s.out) ∧
  (∀ s : State, s.sent ++ s.out.drop s.taken = s.out) ∧
  (∀ (t : Timing) (p : PortsIn) (s next : State),
    ((portsOut t p s next).txValid = true →
      ∃ b, (portsOut t p s next).txData = some b ∧ s.out[s.taken]? = some b) ∧
    ((portsOut t p s next).txValid = false → (portsOut t p s next).txData = none) ∧
    (transfers t p s = true ↔ (portsOut t p s next).txValid = true ∧ p.txReady = true)) ∧
  (∀ (t : Timing) (p : PortsIn) (s next : State), transfers t p s = true →
    ∃ b u, (portsOut t p s next).txData = some b ∧ cycle t p s = .next u ∧ u.sent = s.sent ++ [b]) ∧
  (∀ (t : Timing) (p : PortsIn) (s : State), s.taken ≤ s.out.length → transfers t p s = false →
    ∃ u, cycle t p s = .next u ∧ u.sent = s.sent)

/-- 70_reset_and_hazards.md R78: in an acceptance cycle STATUS shows the state before or after, and either
may happen; in a cycle that neither accepts nor resets the state. The port model, and that a cycle with
`rst` = 1 leaves the side of the reset open, are the model's choice (log 6). -/
def Obligations.StatusInAnAcceptanceCycle : Prop :=
  (∀ (t : Timing) (p : PortsIn) (s next : State),
    (portsOut t p s next).status = s.status ∨
      ((accepts t p = true ∨ p.rst = true) ∧ (portsOut t p s next).status = next.status)) ∧
  (∀ (t : Timing) (p : PortsIn) (s next : State), accepts t p = false → p.rst = false →
    (portsOut t p s next).status = s.status) ∧
  (∀ (p : PortsIn) (s next : State), p.rst = false → p.cmdValid = true →
    ∃ t u, (portsOut t p s next).status = s.status ∧ (portsOut u p s next).status = next.status ∧
      accepts t p = true ∧ accepts u p = true) ∧
  (∀ (p : PortsIn) (s next : State), p.rst = true →
    ∃ t u, (portsOut t p s next).status = s.status ∧ (portsOut u p s next).status = next.status)

/-! ## Frames -/

/-- 41_serializer.md R47 and 30_encoding.md R30: a SOF, any commands but EOF, then EOF emit exactly the
slave id, the function code, the PUT bytes in order and the CRC of them, low byte first; a command other
than PUT and EOF in an open frame is a NOP or raises an error, and changes neither `crc`, `mode` nor
`out`. -/
def Obligations.FrameContent : Prop :=
  (∀ (f x : Byte) (is : List Instr) (s : State), s.mode = .idle → s.sidValid = true →
    staysOpen is = true →
    ∃ t, execAll (.sof f :: (is ++ [.eof x])) s = .next t ∧
      (∃ P c, P = s.sid :: f :: payloadOf is ∧ c = computeCrc P ∧
        t.out = s.out ++ (P ++ [lo8 c, hi8 c]) ∧ 4 ≤ (P ++ [lo8 c, hi8 c]).length ∧
        t.crc = c) ∧
      t.mode = .idle) ∧
  (∀ (i : Instr) (s t : State), isCommand i = true → s.mode = .opened →
    (∀ d, i ≠ .put d ∧ i ≠ .eof d) → exec i s = .next t →
    t.crc = s.crc ∧ t.mode = s.mode ∧ t.out = s.out ∧
      ((∀ x, i ≠ .nop x) → raises i s ≠ none))

/-- R48: from IDLE with the same slave id, the same commands emit the same bytes, whatever `crc`, the
earlier output, the error flag and everything else hold; and one frame's bytes depend only on `sid` and
the data fields of its SOF and PUTs, whatever else stands between SOF and EOF. -/
def Obligations.EmittedBytesDependOnSlaveIdAndCommandsOnly : Prop :=
  (∀ (is : List Instr) (s t : State), s.mode = .idle → t.mode = .idle →
    s.sidValid = true → t.sidValid = true → s.sid = t.sid → (∀ i ∈ is, isCommand i = true) →
    ∃ s' t' bytes, execAll is s = .next s' ∧ execAll is t = .next t' ∧
      s'.out = s.out ++ bytes ∧ t'.out = t.out ++ bytes) ∧
  (∀ (f x y : Byte) (is js : List Instr) (s t : State), s.mode = .idle → t.mode = .idle →
    s.sidValid = true → t.sidValid = true → s.sid = t.sid →
    staysOpen is = true → staysOpen js = true → payloadOf is = payloadOf js →
    ∃ s' t' frame, execAll (.sof f :: (is ++ [.eof x])) s = .next s' ∧
      execAll (.sof f :: (js ++ [.eof y])) t = .next t' ∧
      s'.out = s.out ++ frame ∧ t'.out = t.out ++ frame)

/-- R49: STATUS[15:0] is the CRC of the open frame's bytes so far, and after EOF that of the last frame
until a command writes the CRC. -/
def Obligations.StatusShowsTheFrameCrc : Prop :=
  (∀ (f : Byte) (is : List Instr) (s : State), s.mode = .idle → s.sidValid = true →
    staysOpen is = true →
    ∃ t, execAll (.sof f :: is) s = .next t ∧ t.mode = .opened ∧
      t.out = s.out ++ (s.sid :: f :: payloadOf is) ∧
      t.status.extractLsb' 0 16 = computeCrc (s.sid :: f :: payloadOf is)) ∧
  (∀ (f x : Byte) (is after : List Instr) (s : State), s.mode = .idle → s.sidValid = true →
    staysOpen is = true →
    (∀ i ∈ after, isCommand i = true ∧ ∀ d, i ≠ .crcinit d ∧ i ≠ .crcfeed d ∧ i ≠ .sof d) →
    ∃ t, execAll (.sof f :: (is ++ .eof x :: after)) s = .next t ∧ t.mode = .idle ∧
      t.status.extractLsb' 0 16 = computeCrc (s.sid :: f :: payloadOf is))

/-- 42_frames.md R50: CRC16 leaves the CRC of its bytes, emits nothing; in OPEN it only raises
BAD_MODE. -/
def Obligations.Crc16LeavesTheCrcOfItsBytes : Prop :=
  (∀ (bs : List Byte) (s : State), s.mode = .idle →
    perform (.pseudo (.crc16 bs)) s = .next { s with crc := computeCrc bs }) ∧
  (∀ (bs : List Byte) (s : State), s.mode = .idle →
    ({ s with crc := computeCrc bs } : State).status.extractLsb' 0 16 = computeCrc bs) ∧
  (∀ (bs : List Byte) (s : State), s.mode = .opened →
    perform (.pseudo (.crc16 bs)) s =
      .next { s with err := true, ecause := if s.err then s.ecause else .badMode }) ∧
  (∀ bs : List Byte, (Pseudo.crc16 bs).words = 0x200#11 :: bs.map (cmdWord 3#3)) ∧
  (∀ s : State, s.mode = .idle →
    ∃ t, perform (.pseudo (.crc16 [0x09#8, 0x03#8, 0x07#8, 0xD0#8, 0x06#8])) s = .next t ∧
      t.status.extractLsb' 0 16 = 0x4694#16)

/-- R51: FRAME emits the slave id, the function code, the payload and the CRC field, k + 4 bytes. -/
def Obligations.FrameEmitsItsBytesAndTheirCrc : Prop :=
  (∀ (f : Byte) (ps : List Byte) (s : State), s.mode = .idle → s.sidValid = true →
    ∃ P c, P = s.sid :: f :: ps ∧ c = computeCrc P ∧ (P ++ [lo8 c, hi8 c]).length = ps.length + 4 ∧
      perform (.pseudo (.frame f ps)) s =
        .next { s with out := s.out ++ (P ++ [lo8 c, hi8 c]), crc := c }) ∧
  (∀ (f : Byte) (ps : List Byte) (s : State), s.mode = .idle → s.sidValid = true →
    ∃ t, execAll (.sof f :: ps.map .put) s = .next t ∧ t.mode = .opened) ∧
  (∀ (f : Byte) (ps : List Byte),
    (Pseudo.frame f ps).words = cmdWord 4#3 f :: (ps.map (cmdWord 5#3) ++ [0x600#11])) ∧
  frameBytes 0x09#8 0x10#8 [] = [0x09#8, 0x10#8, 0x06#8, 0x2C#8]

/-- R52, R31, R60: READ_FRAME completes and emits the 7-byte read frame. -/
def Obligations.ReadFrameEmitsSevenBytes : Prop :=
  (∀ (a : Word16) (n : Byte) (s : State), s.mode = .idle → s.sidValid = true →
    ∃ P c, P = [s.sid, 0x03#8, hi8 a, lo8 a, n] ∧ c = computeCrc P ∧
      (P ++ [lo8 c, hi8 c]).length = 7 ∧
      exec (.readHoldingFrame a n) s =
        .next { s with out := s.out ++ (P ++ [lo8 c, hi8 c]), crc := c }) ∧
  (∀ (a : Word16) (n : Byte),
    (Pseudo.readFrame a n).words =
      [0x403#11, cmdWord 5#3 (hi8 a), cmdWord 5#3 (lo8 a), cmdWord 5#3 n, 0x600#11]) ∧
  encode 0x09#8 (.readHoldingFrame 0x07D0#16 0x06#8) =
    .frame [0x09#8, 0x03#8, 0x07#8, 0xD0#8, 0x06#8, 0x94#8, 0x46#8]

/-- R53, R32, R61: WRITE_FRAME of 1 to 127 values completes and emits the 9 + 2n bytes of the layout. -/
def Obligations.WriteFrameEmitsNinePlusTwoNBytes : Prop :=
  (∀ (a : Word16) (vs : List Word16) (s : State), s.mode = .idle → s.sidValid = true →
    1 ≤ vs.length → vs.length ≤ 127 →
    ∃ P c,
      P = [s.sid, 0x10#8, hi8 a, lo8 a, hi8 (BitVec.ofNat 16 vs.length),
          lo8 (BitVec.ofNat 16 vs.length), BitVec.ofNat 8 (2 * vs.length)] ++
          vs.flatMap (fun v => [hi8 v, lo8 v]) ∧
      hi8 (BitVec.ofNat 16 vs.length) = 0x00#8 ∧
      c = computeCrc P ∧ (P ++ [lo8 c, hi8 c]).length = 9 + 2 * vs.length ∧
      exec (.writeMultipleFrame a vs) s =
        .next { s with out := s.out ++ (P ++ [lo8 c, hi8 c]), crc := c }) ∧
  (∀ (a : Word16) (vs : List Word16), vs.length ≤ 127 →
    (Pseudo.writeFrame a vs).words =
      [0x410#11, cmdWord 5#3 (hi8 a), cmdWord 5#3 (lo8 a), 0x500#11,
        cmdWord 5#3 (BitVec.ofNat 8 vs.length), cmdWord 5#3 (BitVec.ofNat 8 (2 * vs.length))] ++
      vs.flatMap (fun v => [cmdWord 5#3 (hi8 v), cmdWord 5#3 (lo8 v)]) ++ [0x600#11]) ∧
  (∀ (p : Pseudo) (s : State), p = .activate ∨ p = .deactivate → s.mode = .idle →
    s.sidValid = true →
    ∃ t, perform (.pseudo p) s = .next t ∧ t.out.length = s.out.length + 15) ∧
  encode 0x09#8 (.writeMultipleFrame 0x03E8#16 [0x1234#16, 0xABCD#16]) =
    .frame [0x09#8, 0x10#8, 0x03#8, 0xE8#8, 0x00#8, 0x02#8, 0x04#8, 0x12#8, 0x34#8, 0xAB#8, 0xCD#8,
      0x38#8, 0xC2#8]

/-- R54, R55: ACTIVATE and DEACTIVATE emit their 15 bytes; with slave id 0x09 the frames of V7;
DEACTIVATE twice emits two identical frames. -/
def Obligations.ActivateAndDeactivateFrames : Prop :=
  (∀ s : State, s.mode = .idle → s.sidValid = true →
    (∃ P c, P = [s.sid, 0x10#8, 0x03#8, 0xE8#8, 0x00#8, 0x03#8, 0x06#8, 0x01#8, 0x00#8, 0x00#8,
        0x00#8, 0x00#8, 0x00#8] ∧ c = computeCrc P ∧
      perform (.pseudo .activate) s =
        .next { s with out := s.out ++ (P ++ [lo8 c, hi8 c]), crc := c }) ∧
    (∃ P c, P = [s.sid, 0x10#8, 0x03#8, 0xE8#8, 0x00#8, 0x03#8, 0x06#8, 0x00#8, 0x00#8, 0x00#8,
        0x00#8, 0x00#8, 0x00#8] ∧ c = computeCrc P ∧
      perform (.pseudo .deactivate) s =
        .next { s with out := s.out ++ (P ++ [lo8 c, hi8 c]), crc := c } ∧
      performAll [.pseudo .deactivate, .pseudo .deactivate] s =
        .next { s with out := s.out ++ (P ++ [lo8 c, hi8 c]) ++ (P ++ [lo8 c, hi8 c]), crc := c })) ∧
  Pseudo.activate.words =
    [0x410#11, 0x503#11, 0x5E8#11, 0x500#11, 0x503#11, 0x506#11, 0x501#11, 0x500#11, 0x500#11,
      0x500#11, 0x500#11, 0x500#11, 0x600#11] ∧
  Pseudo.deactivate.words =
    (Pseudo.writeFrame 0x03E8#16 [0x0000#16, 0x0000#16, 0x0000#16]).words ∧
  (∀ s : State, s.mode = .idle → s.sidValid = true → s.sid = 0x09#8 →
    perform (.pseudo .activate) s =
      .next { s with crc := 0xE172#16, out := s.out ++
        [0x09#8, 0x10#8, 0x03#8, 0xE8#8, 0x00#8, 0x03#8, 0x06#8, 0x01#8, 0x00#8, 0x00#8, 0x00#8,
          0x00#8, 0x00#8, 0x72#8, 0xE1#8] } ∧
    perform (.pseudo .deactivate) s =
      .next { s with crc := 0x3073#16, out := s.out ++
        [0x09#8, 0x10#8, 0x03#8, 0xE8#8, 0x00#8, 0x03#8, 0x06#8, 0x00#8, 0x00#8, 0x00#8, 0x00#8,
          0x00#8, 0x00#8, 0x73#8, 0x30#8] })

/-- R56: a frame pseudo-instruction issued in IDLE with `sid_valid` = 0 emits nothing and records
SID_UNSET; issued in OPEN, its SOF is discarded with BAD_MODE and its bytes extend and close the frame
already open. -/
def Obligations.FramePreconditions : Prop :=
  (∀ (p : Pseudo) (f : Byte) (ps : List Byte) (s : State), p.fits = true →
    p.frameParts = some (f, ps) → s.mode = .idle → s.sidValid = false →
    perform (.pseudo p) s =
      .next { s with err := true, ecause := if s.err then s.ecause else .sidUnset }) ∧
  (∀ (p : Pseudo) (f : Byte) (ps : List Byte) (s : State), p.fits = true →
    p.frameParts = some (f, ps) → s.mode = .opened →
    ∃ c, c = crcFold s.crc ps ∧
      perform (.pseudo p) s =
        .next { s with
          out := s.out ++ ps ++ [lo8 c, hi8 c]
          crc := c
          mode := .idle
          err := true
          ecause := if s.err then s.ecause else .badMode }) ∧
  (∀ (p : Pseudo) (earlier body ps : List Byte) (f : Byte) (s t : State), p.fits = true →
    p.frameParts = some (f, ps) → s.mode = .opened →
    s.out = earlier ++ body → s.crc = computeCrc body →
    perform (.pseudo p) s = .next t → t.out = earlier ++ sealFrame (body ++ ps))

/-- R58: what a frame instruction outputs is its encoding; there, the start register at offsets 2 and 3 of
both frames, the register count at 4 and 5 of a write frame, and value i at 7 + 2i and 8 + 2i, each high
byte first and recovered by `(hi << 8) | lo`. -/
def Obligations.AddressAndValueOffsets : Prop :=
  (∀ (i : Instr) (s t : State), i.wf = true → isCommand i = false → s.mode = .idle →
    s.sidValid = true → exec i s = .next t →
    ∃ F, t.out = s.out ++ F ∧ encode s.sid i = .frame F) ∧
  (∀ (sid n : Byte) (a : Word16) (F : List Byte), encode sid (.readHoldingFrame a n) = .frame F →
    F[2]? = some (hi8 a) ∧ F[3]? = some (lo8 a) ∧ ofBytes (hi8 a) (lo8 a) = a) ∧
  (∀ (sid : Byte) (a : Word16) (vs : List Word16) (F : List Byte),
    encode sid (.writeMultipleFrame a vs) = .frame F → 1 ≤ vs.length → vs.length ≤ 127 →
    F[2]? = some (hi8 a) ∧ F[3]? = some (lo8 a) ∧ ofBytes (hi8 a) (lo8 a) = a ∧
    (∃ ch cl, F[4]? = some ch ∧ F[5]? = some cl ∧ (ofBytes ch cl).toNat = vs.length) ∧
    ∀ (i : Nat) (v : Word16), vs[i]? = some v →
      F[7 + 2 * i]? = some (hi8 v) ∧ F[8 + 2 * i]? = some (lo8 v) ∧ ofBytes (hi8 v) (lo8 v) = v)

/-- R59: the last two bytes of every frame a frame pseudo-instruction emits are the CRC of the others, low
byte then high byte. -/
def Obligations.LastTwoBytesAreTheCrc : Prop :=
  ∀ (p : Pseudo) (f : Byte) (ps : List Byte) (s : State), p.fits = true →
    p.frameParts = some (f, ps) → s.mode = .idle → s.sidValid = true →
    ∃ t F, perform (.pseudo p) s = .next t ∧ t.out = s.out ++ F ∧ 4 ≤ F.length ∧
      F[F.length - 2]? = some (lo8 (computeCrc (F.take (F.length - 2)))) ∧
      F[F.length - 1]? = some (hi8 (computeCrc (F.take (F.length - 2))))

/-- 42_frames.md: the meaning of a pseudo-instruction is the meaning of its command sequence: issuing it
in one step (log 3) leaves exactly what accepting its words one step each leaves, from any state. That it
can be issued in one step is the model's choice. -/
def Obligations.PseudoInstructionIsItsWords : Prop :=
  ∀ (p : Pseudo) (rest : List Input) (s : State), p.fits = true →
    stepMany p.words.length { s with inbox := p.words.map .cmd ++ rest } =
      step { s with inbox := .pseudo p :: rest }

/-- The stream the block emits for a frame instruction is the frame the encoder lays out, and the decoder
reads the instruction back from it. -/
def Obligations.EmittedFrameDecodesBack : Prop :=
  ∀ (i : Instr) (s : State), i.wf = true → isCommand i = false → s.mode = .idle →
    s.sidValid = true →
    ∃ t F, exec i s = .next t ∧ t.out = s.out ++ F ∧ encode s.sid i = .frame F ∧
      decodeFrame F = .ok (s.sid, i)

/-! ## Operands a command or the frame instruction does not admit -/

/-- 30_encoding.md R36: the assembler refuses, by name, a command's operand that does not fit its field,
and no other. The names are the model's (log 8). -/
def Obligations.CommandOperandsThatDoNotFitAreRefused : Prop :=
  (∀ (d : Nat) (e : AsmRefusal),
    (assemble (.setsid d) = .error e ↔ 255 < d ∧ e = .byteDoesNotFit) ∧
    (assemble (.crcfeed d) = .error e ↔ 255 < d ∧ e = .byteDoesNotFit) ∧
    (assemble (.sof d) = .error e ↔ 255 < d ∧ e = .byteDoesNotFit) ∧
    (assemble (.put d) = .error e ↔ 255 < d ∧ e = .byteDoesNotFit) ∧
    (assemble (.word d) = .error e ↔ 2047 < d ∧ e = .commandWordDoesNotFit)) ∧
  (∀ e : AsmRefusal, assemble .nop ≠ .error e ∧ assemble .crcinit ≠ .error e ∧ assemble .eof ≠ .error e)

/-- The model's choice (log 9, from 93_implementation_defined.md U1 and R57's "no model may give such a
frame a meaning"): the write frame instruction with no values or more than 127 is refused by name in every
state, and no other instruction is refused. -/
def Obligations.OnlyTheWriteFrameThatDoesNotFitIsRefused : Prop :=
  (∀ (a : Word16) (s : State),
    exec (.writeMultipleFrame a []) s = .refused .writeFrameWithoutValues) ∧
  (∀ (a : Word16) (vs : List Word16) (s : State), 127 < vs.length →
    exec (.writeMultipleFrame a vs) s = .refused .writeFrameTooLong) ∧
  (∀ (i : Instr) (s : State), (∃ r, exec i s = .refused r) ↔ i.wf = false)
end

