-- ==== Sys2Proof/Laws/Crc.lean ====
section
/-! SUPPORT. The CRC on sequences (40_crc.md R38). -/

namespace Sys2Proof.Machine

@[simp] theorem crcFold_nil (c : Word16) : crcFold c [] = c := rfl

@[simp] theorem crcFold_cons (c : Word16) (b : Byte) (bs : List Byte) :
    crcFold c (b :: bs) = crcFold (crcStep c b) bs := rfl

/-- Folding two sequences one after the other. -/
theorem crcFold_append (c : Word16) (xs ys : List Byte) :
    crcFold c (xs ++ ys) = crcFold (crcFold c xs) ys := by
  induction xs generalizing c with
  | nil => rfl
  | cons x xs ih => simp [ih]

/-- Appending a sequence continues the running CRC. -/
theorem computeCrc_append (xs ys : List Byte) :
    computeCrc (xs ++ ys) = crcFold (computeCrc xs) ys := crcFold_append _ xs ys

/-- What SOF leaves in `crc` (41_serializer.md R44): the CRC of the frame's first two bytes. -/
theorem computeCrc_pair (a b : Byte) :
    computeCrc [a, b] = crcStep (crcStep Config.crcInit a) b := rfl

/-- One iteration spreads over XOR (the linearity R39 rests on). -/
theorem crcShift_xor (a b : Word16) : crcShift (a ^^^ b) = crcShift a ^^^ crcShift b := by
  have cancel (p q r : Word16) : p ^^^ q = (p ^^^ r) ^^^ (q ^^^ r) := by
    rw [BitVec.xor_comm q r, BitVec.xor_assoc, ← BitVec.xor_assoc r, BitVec.xor_self,
      BitVec.zero_xor]
  unfold crcShift
  rw [BitVec.getLsbD_xor, BitVec.ushiftRight_xor_distrib]
  cases a.getLsbD 0 <;> cases b.getLsbD 0
  · rfl
  · exact BitVec.xor_assoc _ _ _
  · show _ ^^^ _ ^^^ _ = (_ ^^^ _) ^^^ _
    rw [BitVec.xor_assoc, BitVec.xor_comm _ Config.crcPoly, ← BitVec.xor_assoc]
    rfl
  · exact cancel _ _ _

/-- `n` iterations spread over XOR. -/
theorem crcShifts_xor (n : Nat) (a b : Word16) :
    crcShifts n (a ^^^ b) = crcShifts n a ^^^ crcShifts n b := by
  induction n generalizing a b with
  | zero => rfl
  | succ n ih => simp [crcShifts, crcShift_xor, ih]

end Sys2Proof.Machine
end

