-- ==== Sys2Proof/Laws/Operands.lean ====
section
/-! SUPPORT. The operand forms and the decoder on the words of the encoding tables. -/

namespace Sys2Proof.Machine

/-- The bits of a command word (30_encoding.md R25). -/
theorem cmdWord_getLsbD (op : BitVec 3) (d : Byte) (i : Nat) :
    (cmdWord op d).getLsbD i = if i < 8 then d.getLsbD i else op.getLsbD (i - 8) :=
  BitVec.getLsbD_append

/-- The op field of a word is the op it was made of (R25). -/
@[simp] theorem opField_cmdWord (op : BitVec 3) (d : Byte) : opField (cmdWord op d) = op := by
  apply BitVec.eq_of_getLsbD_eq
  intro i hi
  simp [opField, cmdWord_getLsbD, hi]

/-- The data field of a word is the byte it was made of (R25, R27). -/
@[simp] theorem dataField_cmdWord (op : BitVec 3) (d : Byte) : dataField (cmdWord op d) = d := by
  apply BitVec.eq_of_getLsbD_eq
  intro i hi
  simp [dataField, cmdWord_getLsbD, hi]

/-- A word is its two fields (R25). -/
theorem cmdWord_fields (w : CmdWord) : cmdWord (opField w) (dataField w) = w := by
  apply BitVec.eq_of_getLsbD_eq
  intro i hi
  rw [cmdWord_getLsbD]
  by_cases h : i < 8
  · simp [dataField, h]
  · have h3 : i - 8 < 3 := by omega
    have : 8 + (i - 8) = i := by omega
    simp [opField, h, h3, this]

/-- Reassembling the two bytes of a 16-bit field recovers it (R33). -/
@[simp] theorem ofBytes_hi8_lo8 (w : Word16) : ofBytes (hi8 w) (lo8 w) = w := by
  apply BitVec.eq_of_getLsbD_eq
  intro i hi
  by_cases h : i < 8
  · simp [ofBytes, hi8, lo8, h, hi]
  · have h8 : i - 8 < 8 := by omega
    have : 8 + (i - 8) = i := by omega
    simp [ofBytes, hi8, lo8, h, h8, hi, this]

/-- The high byte of a reassembled field (R33). -/
@[simp] theorem hi8_ofBytes (hi lo : Byte) : hi8 (ofBytes hi lo) = hi := by
  apply BitVec.eq_of_getLsbD_eq
  intro i h
  have h1 : 8 + i < 16 := by omega
  simp [ofBytes, hi8, h, h1]

/-- The low byte of a reassembled field (R33). -/
@[simp] theorem lo8_ofBytes (hi lo : Byte) : lo8 (ofBytes hi lo) = lo := by
  apply BitVec.eq_of_getLsbD_eq
  intro i h
  have h1 : i < 16 := by omega
  simp [ofBytes, lo8, h, h1]

/-- Each value of a write frame takes two bytes (30_encoding.md R32). -/
@[simp] theorem bigEndianAll_length (vs : List Word16) :
    (bigEndianAll vs).length = 2 * vs.length := by
  induction vs with
  | nil => rfl
  | cons v vs ih => simp [bigEndianAll, bigEndian, ih]; omega

/-- The bounds of a write frame's values (42_frames.md R57). -/
theorem fitsWriteFrame_iff (vs : List Word16) :
    fitsWriteFrame vs = true ↔ 1 ≤ vs.length ∧ vs.length ≤ 127 := by
  simp only [fitsWriteFrame, Bool.and_eq_true, decide_eq_true_eq]
  exact Iff.rfl

/-- The CRC field has two bytes (R30). -/
@[simp] theorem crcField_length (c : Word16) : (crcField c).length = 2 := rfl

end Sys2Proof.Machine

namespace Sys2Proof

open Sys2Proof.Machine

/-! The decoder on each row's words (30_encoding.md R26). -/

@[simp] theorem decodeWord_nop (d : Byte) : decodeWord (cmdWord 0#3 d) = .nop d := by
  simp [decodeWord]

@[simp] theorem decodeWord_setsid (d : Byte) : decodeWord (cmdWord 1#3 d) = .setsid d := by
  simp [decodeWord]

@[simp] theorem decodeWord_crcinit (d : Byte) : decodeWord (cmdWord 2#3 d) = .crcinit d := by
  simp [decodeWord]

@[simp] theorem decodeWord_crcfeed (d : Byte) : decodeWord (cmdWord 3#3 d) = .crcfeed d := by
  simp [decodeWord]

@[simp] theorem decodeWord_sof (d : Byte) : decodeWord (cmdWord 4#3 d) = .sof d := by
  simp [decodeWord]

@[simp] theorem decodeWord_put (d : Byte) : decodeWord (cmdWord 5#3 d) = .put d := by
  simp [decodeWord]

@[simp] theorem decodeWord_eof (d : Byte) : decodeWord (cmdWord 6#3 d) = .eof d := by
  simp [decodeWord]

@[simp] theorem decodeWord_reserved (d : Byte) : decodeWord (cmdWord 7#3 d) = .reserved d := by
  simp [decodeWord]

end Sys2Proof
end

