-- ==== Sys2Proof/Laws/State.lean ====
section
/-! SUPPORT. What each update of the state leaves in each field, so that no later proof unfolds a record
update. -/

namespace Sys2Proof.Machine

/-! ## emit (00_scope.md R5) -/

@[simp] theorem emit_crc (b : Byte) (s : State) : (emit b s).crc = s.crc := rfl

@[simp] theorem emit_mode (b : Byte) (s : State) : (emit b s).mode = s.mode := rfl

@[simp] theorem emit_sid (b : Byte) (s : State) : (emit b s).sid = s.sid := rfl

@[simp] theorem emit_sidValid (b : Byte) (s : State) : (emit b s).sidValid = s.sidValid := rfl

@[simp] theorem emit_err (b : Byte) (s : State) : (emit b s).err = s.err := rfl

@[simp] theorem emit_ecause (b : Byte) (s : State) : (emit b s).ecause = s.ecause := rfl

@[simp] theorem emit_out (b : Byte) (s : State) : (emit b s).out = s.out ++ [b] := rfl

@[simp] theorem emit_taken (b : Byte) (s : State) : (emit b s).taken = s.taken := rfl

@[simp] theorem emit_inbox (b : Byte) (s : State) : (emit b s).inbox = s.inbox := rfl

/-! ## foldCrc (40_crc.md R37) -/

@[simp] theorem foldCrc_crc (b : Byte) (s : State) : (foldCrc b s).crc = crcStep s.crc b := rfl

@[simp] theorem foldCrc_mode (b : Byte) (s : State) : (foldCrc b s).mode = s.mode := rfl

@[simp] theorem foldCrc_sid (b : Byte) (s : State) : (foldCrc b s).sid = s.sid := rfl

@[simp] theorem foldCrc_sidValid (b : Byte) (s : State) : (foldCrc b s).sidValid = s.sidValid := rfl

@[simp] theorem foldCrc_err (b : Byte) (s : State) : (foldCrc b s).err = s.err := rfl

@[simp] theorem foldCrc_ecause (b : Byte) (s : State) : (foldCrc b s).ecause = s.ecause := rfl

@[simp] theorem foldCrc_out (b : Byte) (s : State) : (foldCrc b s).out = s.out := rfl

@[simp] theorem foldCrc_taken (b : Byte) (s : State) : (foldCrc b s).taken = s.taken := rfl

@[simp] theorem foldCrc_inbox (b : Byte) (s : State) : (foldCrc b s).inbox = s.inbox := rfl

/-! ## record (60_exceptions.md R64) -/

@[simp] theorem record_crc (k : Cause) (s : State) : (record k s).crc = s.crc := by
  cases h : s.err <;> simp [record, h]

@[simp] theorem record_mode (k : Cause) (s : State) : (record k s).mode = s.mode := by
  cases h : s.err <;> simp [record, h]

@[simp] theorem record_sid (k : Cause) (s : State) : (record k s).sid = s.sid := by
  cases h : s.err <;> simp [record, h]

@[simp] theorem record_sidValid (k : Cause) (s : State) : (record k s).sidValid = s.sidValid := by
  cases h : s.err <;> simp [record, h]

@[simp] theorem record_err (k : Cause) (s : State) : (record k s).err = true := by
  cases h : s.err <;> simp [record, h]

@[simp] theorem record_ecause (k : Cause) (s : State) : (record k s).ecause = if s.err then s.ecause else k := by
  cases h : s.err <;> simp [record, h]

@[simp] theorem record_out (k : Cause) (s : State) : (record k s).out = s.out := by
  cases h : s.err <;> simp [record, h]

@[simp] theorem record_taken (k : Cause) (s : State) : (record k s).taken = s.taken := by
  cases h : s.err <;> simp [record, h]

@[simp] theorem record_inbox (k : Cause) (s : State) : (record k s).inbox = s.inbox := by
  cases h : s.err <;> simp [record, h]

/-! ## resetBlock (70_reset_and_hazards.md R73) -/

@[simp] theorem resetBlock_crc (s : State) : (resetBlock s).crc = Config.crcInit := rfl

@[simp] theorem resetBlock_mode (s : State) : (resetBlock s).mode = .idle := rfl

@[simp] theorem resetBlock_sid (s : State) : (resetBlock s).sid = Config.sidAtReset := rfl

@[simp] theorem resetBlock_sidValid (s : State) : (resetBlock s).sidValid = false := rfl

@[simp] theorem resetBlock_err (s : State) : (resetBlock s).err = false := rfl

@[simp] theorem resetBlock_ecause (s : State) : (resetBlock s).ecause = .none := rfl

@[simp] theorem resetBlock_out (s : State) : (resetBlock s).out = s.out := rfl

@[simp] theorem resetBlock_taken (s : State) : (resetBlock s).taken = s.taken := rfl

@[simp] theorem resetBlock_inbox (s : State) : (resetBlock s).inbox = s.inbox := rfl

/-! ## openFrame (41_serializer.md R44) -/

@[simp] theorem openFrame_crc (d : Byte) (s : State) : (openFrame d s).crc = crcStep (crcStep Config.crcInit s.sid) d := rfl

@[simp] theorem openFrame_mode (d : Byte) (s : State) : (openFrame d s).mode = .opened := rfl

@[simp] theorem openFrame_sid (d : Byte) (s : State) : (openFrame d s).sid = s.sid := rfl

@[simp] theorem openFrame_sidValid (d : Byte) (s : State) : (openFrame d s).sidValid = s.sidValid := rfl

@[simp] theorem openFrame_err (d : Byte) (s : State) : (openFrame d s).err = s.err := rfl

@[simp] theorem openFrame_ecause (d : Byte) (s : State) : (openFrame d s).ecause = s.ecause := rfl

@[simp] theorem openFrame_out (d : Byte) (s : State) : (openFrame d s).out = s.out ++ [s.sid] ++ [d] := rfl

@[simp] theorem openFrame_taken (d : Byte) (s : State) : (openFrame d s).taken = s.taken := rfl

@[simp] theorem openFrame_inbox (d : Byte) (s : State) : (openFrame d s).inbox = s.inbox := rfl

/-! ## closeFrame (41_serializer.md R46) -/

@[simp] theorem closeFrame_crc (s : State) : (closeFrame s).crc = s.crc := rfl

@[simp] theorem closeFrame_mode (s : State) : (closeFrame s).mode = .idle := rfl

@[simp] theorem closeFrame_sid (s : State) : (closeFrame s).sid = s.sid := rfl

@[simp] theorem closeFrame_sidValid (s : State) : (closeFrame s).sidValid = s.sidValid := rfl

@[simp] theorem closeFrame_err (s : State) : (closeFrame s).err = s.err := rfl

@[simp] theorem closeFrame_ecause (s : State) : (closeFrame s).ecause = s.ecause := rfl

@[simp] theorem closeFrame_out (s : State) : (closeFrame s).out = s.out ++ [lo8 s.crc] ++ [hi8 s.crc] := rfl

@[simp] theorem closeFrame_taken (s : State) : (closeFrame s).taken = s.taken := rfl

@[simp] theorem closeFrame_inbox (s : State) : (closeFrame s).inbox = s.inbox := rfl

/-! ## takeByte (10_state.md R7) -/

@[simp] theorem takeByte_crc (s : State) : (takeByte s).crc = s.crc := by
  cases h : s.txWaiting <;> simp [takeByte, h]

@[simp] theorem takeByte_mode (s : State) : (takeByte s).mode = s.mode := by
  cases h : s.txWaiting <;> simp [takeByte, h]

@[simp] theorem takeByte_sid (s : State) : (takeByte s).sid = s.sid := by
  cases h : s.txWaiting <;> simp [takeByte, h]

@[simp] theorem takeByte_sidValid (s : State) : (takeByte s).sidValid = s.sidValid := by
  cases h : s.txWaiting <;> simp [takeByte, h]

@[simp] theorem takeByte_err (s : State) : (takeByte s).err = s.err := by
  cases h : s.txWaiting <;> simp [takeByte, h]

@[simp] theorem takeByte_ecause (s : State) : (takeByte s).ecause = s.ecause := by
  cases h : s.txWaiting <;> simp [takeByte, h]

@[simp] theorem takeByte_out (s : State) : (takeByte s).out = s.out := by
  cases h : s.txWaiting <;> simp [takeByte, h]

@[simp] theorem takeByte_taken (s : State) : (takeByte s).taken = if s.txWaiting then s.taken + 1 else s.taken := by
  cases h : s.txWaiting <;> simp [takeByte, h]

@[simp] theorem takeByte_inbox (s : State) : (takeByte s).inbox = s.inbox := by
  cases h : s.txWaiting <;> simp [takeByte, h]

end Sys2Proof.Machine
end

