-- ==== Sys2Proof/Laws/Ops.lean ====
section
/-! SUPPORT. What each shared operation and each command can do, said once. -/

namespace Sys2Proof.Machine

/-! ## Checks and errors (60_exceptions.md R63 to R65) -/

@[simp] theorem guarded_none (f : State → State) (s : State) : guarded none f s = f s := rfl

@[simp] theorem guarded_some (k : Cause) (f : State → State) (s : State) :
    guarded (some k) f s = record k s := rfl

/-- A guarded command either records the cause of its check or has its effect. -/
theorem guarded_cases (c : Option Cause) (f : State → State) (s : State) :
    (∃ k, c = some k ∧ guarded c f s = record k s) ∨ (c = none ∧ guarded c f s = f s) := by
  cases c with
  | none => exact .inr ⟨rfl, rfl⟩
  | some k => exact .inl ⟨k, rfl, rfl⟩

/-- The first error since reset is recorded. -/
theorem record_first {s : State} (h : s.err = false) (k : Cause) :
    record k s = { s with ecause := k, err := true } := by simp [record, h]

/-- A later error records nothing. -/
@[simp] theorem record_later {s : State} (h : s.err = true) (k : Cause) : record k s = s := by
  simp [record, h]

/-- Two errors one after the other leave what the first leaves. -/
@[simp] theorem record_record (j k : Cause) (s : State) : record k (record j s) = record j s := by
  simp

theorem checkIdle_of_idle {s : State} (h : s.mode = .idle) : checkIdle s = none := by
  simp [checkIdle, h]

theorem checkIdle_of_opened {s : State} (h : s.mode = .opened) : checkIdle s = some .badMode := by
  simp [checkIdle, h]

theorem checkOpen_of_opened {s : State} (h : s.mode = .opened) : checkOpen s = none := by
  simp [checkOpen, h]

theorem checkOpen_of_idle {s : State} (h : s.mode = .idle) : checkOpen s = some .badMode := by
  simp [checkOpen, h]

theorem checkSof_of_opened {s : State} (h : s.mode = .opened) : checkSof s = some .badMode := by
  simp [checkSof, checkIdle, h]

theorem checkSof_of_unset {s : State} (h : s.mode = .idle) (hv : s.sidValid = false) :
    checkSof s = some .sidUnset := by simp [checkSof, checkIdle, h, hv]

theorem checkSof_of_ready {s : State} (h : s.mode = .idle) (hv : s.sidValid = true) :
    checkSof s = none := by simp [checkSof, checkIdle, h, hv]

/-! ## Each command in each mode -/

theorem setsid_of_idle {s : State} (h : s.mode = .idle) (d : Byte) :
    setsid d s = { s with sid := d, sidValid := true } := by simp [setsid, checkIdle_of_idle h]

theorem setsid_of_opened {s : State} (h : s.mode = .opened) (d : Byte) :
    setsid d s = record .badMode s := by simp [setsid, checkIdle_of_opened h]

theorem crcinit_of_idle {s : State} (h : s.mode = .idle) :
    crcinit s = { s with crc := Config.crcInit } := by simp [crcinit, checkIdle_of_idle h]

theorem crcinit_of_opened {s : State} (h : s.mode = .opened) : crcinit s = record .badMode s := by
  simp [crcinit, checkIdle_of_opened h]

theorem crcfeed_of_idle {s : State} (h : s.mode = .idle) (d : Byte) :
    crcfeed d s = { s with crc := crcStep s.crc d } := by
  simp [crcfeed, checkIdle_of_idle h, foldCrc]

theorem crcfeed_of_opened {s : State} (h : s.mode = .opened) (d : Byte) :
    crcfeed d s = record .badMode s := by simp [crcfeed, checkIdle_of_opened h]

theorem sof_of_opened {s : State} (h : s.mode = .opened) (d : Byte) :
    sof d s = record .badMode s := by simp [sof, checkSof_of_opened h]

theorem sof_of_unset {s : State} (h : s.mode = .idle) (hv : s.sidValid = false) (d : Byte) :
    sof d s = record .sidUnset s := by simp [sof, checkSof_of_unset h hv]

theorem sof_of_ready {s : State} (h : s.mode = .idle) (hv : s.sidValid = true) (d : Byte) :
    sof d s = openFrame d s := by simp [sof, checkSof_of_ready h hv]

theorem put_of_opened {s : State} (h : s.mode = .opened) (d : Byte) :
    put d s = { s with out := s.out ++ [d], crc := crcStep s.crc d } := by
  simp [put, checkOpen_of_opened h, foldCrc, emit]

theorem put_of_idle {s : State} (h : s.mode = .idle) (d : Byte) :
    put d s = record .badMode s := by simp [put, checkOpen_of_idle h]

theorem eof_of_opened {s : State} (h : s.mode = .opened) : eof s = closeFrame s := by
  simp [eof, checkOpen_of_opened h]

theorem eof_of_idle {s : State} (h : s.mode = .idle) : eof s = record .badMode s := by
  simp [eof, checkOpen_of_idle h]

/-! ## Sequences of one command -/

/-- PUTs in an open frame (41_serializer.md R45). -/
theorem putAll_of_opened (ps : List Byte) {s : State} (h : s.mode = .opened) :
    putAll ps s = { s with out := s.out ++ ps, crc := crcFold s.crc ps } := by
  induction ps generalizing s with
  | nil => simp [putAll]
  | cons p ps ih =>
    rw [putAll, put_of_opened h, ih]
    · simp
    · exact h

/-- PUTs outside a frame once an error stands (R45, 60_exceptions.md R64). -/
theorem putAll_of_idle (ps : List Byte) {s : State} (h : s.mode = .idle) (he : s.err = true) :
    putAll ps s = s := by
  induction ps with
  | nil => rfl
  | cons p ps ih => simp [putAll, put_of_idle h, he, ih]

/-- CRCFEEDs in IDLE (40_crc.md R41). -/
theorem feedAll_of_idle (bs : List Byte) {s : State} (h : s.mode = .idle) :
    feedAll bs s = { s with crc := crcFold s.crc bs } := by
  induction bs generalizing s with
  | nil => simp [feedAll]
  | cons b bs ih =>
    rw [feedAll, crcfeed_of_idle h, ih]
    · simp
    · exact h

/-- CRCFEEDs in OPEN once an error stands (R41, R64). -/
theorem feedAll_of_opened (bs : List Byte) {s : State} (h : s.mode = .opened) (he : s.err = true) :
    feedAll bs s = s := by
  induction bs with
  | nil => rfl
  | cons b bs ih => simp [feedAll, crcfeed_of_opened h, he, ih]

end Sys2Proof.Machine
end

