-- ==== Sys2Proof/Laws/PerInstr.lean ====
section
/-! SUPPORT. A fact about every instruction as syntax: the shape of its code, and that the command port's
encoder and the encoder of both spaces agree. -/

namespace Sys2Proof.Laws.CodeShape

open Sys2Proof.Machine

/-- An instruction's code is its command word where it has one, and otherwise a frame of at least the 4
bytes of 30_encoding.md R30, whatever the slave id. -/
def Statement (i : Instr) : Prop :=
  ∀ sid, match encodeWord i, encode sid i with
    | some w, .word v => w = v
    | none, .frame bytes => 4 ≤ bytes.length
    | _, _ => False

theorem nop (x : Byte) : Statement (.nop x) := fun _ => rfl

theorem setsid (d : Byte) : Statement (.setsid d) := fun _ => rfl

theorem crcinit (x : Byte) : Statement (.crcinit x) := fun _ => rfl

theorem crcfeed (d : Byte) : Statement (.crcfeed d) := fun _ => rfl

theorem sof (d : Byte) : Statement (.sof d) := fun _ => rfl

theorem put (d : Byte) : Statement (.put d) := fun _ => rfl

theorem eof (x : Byte) : Statement (.eof x) := fun _ => rfl

theorem reserved (x : Byte) : Statement (.reserved x) := fun _ => rfl

theorem readHoldingFrame (a : Word16) (n : Byte) : Statement (.readHoldingFrame a n) :=
  fun _ => by simp [encodeWord, encode, frameBytes, sealFrame]

theorem writeMultipleFrame (a : Word16) (vs : List Word16) : Statement (.writeMultipleFrame a vs) :=
  fun _ => by simp [encodeWord, encode, frameBytes, sealFrame]

end Sys2Proof.Laws.CodeShape
end

