-- ==== Sys2Proof/Laws/Ports.lean ====
section
/-! SUPPORT. What one cycle of the ports can do (10_state.md R7). -/

namespace Sys2Proof.Machine

/-- No command is accepted while `rst` is 1 (70_reset_and_hazards.md R73). -/
@[simp] theorem accepts_of_rst {t : Timing} {p : PortsIn} (h : p.rst = true) :
    accepts t p = false := by simp [accepts, cmdReady, h]

/-- STATUS in a cycle that neither accepts a command nor resets (20_memory.md R22). -/
theorem portsOut_status_of_quiet {t : Timing} {p : PortsIn} {s next : State}
    (ha : accepts t p = false) (hr : p.rst = false) : (portsOut t p s next).status = s.status := by
  simp [portsOut, ha, hr]

/-- STATUS in a cycle that accepts a command (R78) or resets (log 6). -/
theorem portsOut_status_of_change {t : Timing} {p : PortsIn} {s next : State}
    (h : accepts t p = true ∨ p.rst = true) :
    (portsOut t p s next).status = statusDuring t.statusAfter s next := by
  rcases h with h | h <;> simp [portsOut, h]

@[simp] theorem statusDuring_false (s t : State) : statusDuring false s t = s.status := rfl
@[simp] theorem statusDuring_true (s t : State) : statusDuring true s t = t.status := rfl

/-- A byte is transferred where it is shown and taken. -/
theorem transfers_iff {t : Timing} {p : PortsIn} {s : State} :
    transfers t p s = true ↔ txValid t s = true ∧ p.txReady = true := by simp [transfers]

/-- `tx_valid` is 1 only with a byte of `out` not yet transferred. -/
theorem waiting_of_txValid {t : Timing} {s : State} (h : txValid t s = true) :
    s.taken < s.out.length := by simpa [State.txWaiting] using (Bool.and_eq_true_iff.1 h).2

/-- The byte shown while `tx_valid` is 1. -/
theorem portsOut_txData_of_valid {t : Timing} {p : PortsIn} {s next : State} (h : txValid t s = true) :
    (portsOut t p s next).txData = s.txData := by simp [portsOut, h]

/-- No byte is shown while `tx_valid` is 0 (log 12). -/
theorem portsOut_txData_of_not_valid {t : Timing} {p : PortsIn} {s next : State}
    (h : txValid t s = false) : (portsOut t p s next).txData = none := by simp [portsOut, h]

end Sys2Proof.Machine
end

