-- ==== Sys2Proof/Laws/Run.lean ====
section
/-! SUPPORT. Runs of the machine, step by step, and what every step is (00_scope.md R6). -/

namespace Sys2Proof.Machine

/-- A run of any machine goes on from a next state. -/
theorem runOf_succ_of_next (M : Host.Core) {k : Nat} {s t : M.State} (h : M.step s = .next t) :
    M.run (k + 1) s = M.run k t := by rw [Host.Core.run, h]

/-- A run of any machine stops at a refusal. -/
theorem runOf_succ_of_refused (M : Host.Core) {k : Nat} {s : M.State} {r : M.Refusal}
    (h : M.step s = .refused r) : M.run (k + 1) s = .refused r := by rw [Host.Core.run, h]

/-- The machine's own runs are the host's runs of its core. -/
theorem stepMany_eq_run (n : Nat) (s : State) : stepMany n s = Host.Core.run core n s := by
  induction n generalizing s with
  | zero => rfl
  | succ n ih =>
    cases h : step s with
    | next t => rw [stepMany, h]; exact (ih t).trans (runOf_succ_of_next core h).symm
    | fault r => exact nomatch r
    | refused r => rw [stepMany, h]; exact (runOf_succ_of_refused core h).symm

/-- No step changes nothing. -/
@[simp] theorem stepMany_zero (s : State) : stepMany 0 s = .next s := rfl

/-- A run goes on from a next state. -/
theorem stepMany_succ_of_next {n : Nat} {s t : State} (h : step s = .next t) :
    stepMany (n + 1) s = stepMany n t := by rw [stepMany, h]

/-- A run stops at a refusal. -/
theorem stepMany_succ_of_refused {n : Nat} {s : State} {r : Refusal} (h : step s = .refused r) :
    stepMany (n + 1) s = .refused r := by rw [stepMany, h]

/-- With no input a step changes nothing (60_exceptions.md R72). -/
theorem step_of_no_input {s : State} (h : s.inbox = []) : step s = .next s := by simp [step, h]

/-- With an input a step performs it. -/
theorem step_of_input {s : State} {e : Input} {rest : List Input} (h : s.inbox = e :: rest) :
    step s = perform e { s with inbox := rest } := by simp [step, h]

/-- An instruction performed through its input is the instruction executed. -/
theorem perform_inputOf (i : Instr) (s : State) : perform (inputOf i) s = exec i s := by
  cases i <;> simp [inputOf, perform, execPseudo]

/-- A write frame whose values fit completes (42_frames.md R53, R57). -/
theorem execWriteMultipleFrame_of_fits {vs : List Word16} (h : fitsWriteFrame vs = true)
    (a : Word16) (s : State) :
    execWriteMultipleFrame a vs s =
      .next (frameSequence Config.fcWrite (writePayload a vs) s) := by
  obtain ⟨h1, h2⟩ := (fitsWriteFrame_iff vs).1 h
  have h0 : ¬ vs.length = 0 := by omega
  have h3 : ¬ Config.writeMaxRegs < vs.length := Nat.not_lt.2 h2
  rw [execWriteMultipleFrame, if_neg h0, if_neg h3]

/-- A write frame whose values do not fit is refused (R57). -/
theorem execWriteMultipleFrame_of_unfit {vs : List Word16} (h : fitsWriteFrame vs = false)
    (a : Word16) (s : State) : ∃ r, execWriteMultipleFrame a vs s = .refused r := by
  unfold execWriteMultipleFrame
  by_cases h0 : vs.length = 0
  · exact ⟨_, if_pos h0⟩
  · by_cases h3 : Config.writeMaxRegs < vs.length
    · exact ⟨_, by rw [if_neg h0, if_pos h3]⟩
    · have : fitsWriteFrame vs = true :=
        (fitsWriteFrame_iff vs).2 ⟨Nat.one_le_iff_ne_zero.2 h0, Nat.not_lt.1 h3⟩
      rw [h] at this
      cases this

end Sys2Proof.Machine
end

