-- ==== Sys2Proof/Tests/Slice0.lean ====
section
/-! SUPPORT. The model's own tests: expected values come from the vectors of 95_test_vectors.md and the
encodings of 30_encoding.md, worked outside the model; and, for each statement with hypotheses, a
concrete state and operands that meet them. -/

namespace Sys2Proof.Tests

open Sys2Proof Sys2Proof.Machine

/-! ## Helpers -/

/-- S1 of V6: IDLE, `sid` 0x09, no error. -/
def s1 : State := { State.reset with sid := 0x09#8, sidValid := true }

/-- S2 of V6: OPEN after SOF 0x10 from S1. -/
def s2 : State := { s1 with mode := .opened, crc := 0x2C06#16, out := [0x09#8, 0x10#8] }

/-- A state after an error of cause `k`. -/
def failed (k : Cause) (s : State) : State := { s with err := true, ecause := k }

/-- The state of an outcome that is a next state. -/
def next? (o : Host.Outcome State Fault Refusal) : Option State :=
  match o with
  | .next t => some t
  | .fault _ => none
  | .refused _ => none

theorem of_next? {o : Host.Outcome State Fault Refusal} {t : State} (h : next? o = some t) :
    o = .next t := by
  cases o <;> simp_all [next?]

/-- What an outcome's state emitted past `s` and its STATUS: a row of V6. -/
def row (s : State) (o : Host.Outcome State Fault Refusal) : Option (List Byte × StatusWord) :=
  (next? o).map (fun t => (t.out.drop s.out.length, t.status))

/-- The row of one step that accepts a command word. -/
def accepted (s : State) (w : CmdWord) : Option (List Byte × StatusWord) :=
  row s (step { s with inbox := [.cmd w] })

/-- The row of one step that issues a pseudo-instruction. -/
def issued (s : State) (p : Pseudo) : Option (List Byte × StatusWord) :=
  row s (step { s with inbox := [.pseudo p] })

/-- Whether an outcome is this refusal. -/
def refusedWith (r : Refusal) (o : Host.Outcome State Fault Refusal) : Bool :=
  match o with
  | .next _ => false
  | .fault _ => false
  | .refused q => decide (q = r)

/-! ## Well-formedness: the one check, refused on both sides of its range (R57) -/

theorem test_wf_refuses_no_values : (Instr.writeMultipleFrame 0x0000#16 []).wf = false := by
  decide

theorem test_wf_refuses_128_values :
    (Instr.writeMultipleFrame 0x0000#16 (List.replicate 128 0x0000#16)).wf = false := by
  decide +kernel

theorem test_wf_accepts_1_and_127_values :
    (Instr.writeMultipleFrame 0x0000#16 [0x0000#16]).wf = true ∧
    (Instr.writeMultipleFrame 0x0000#16 (List.replicate 127 0x0000#16)).wf = true := by
  decide +kernel

/-! ## Decoding: words written out bit by bit, op then data (R25, R26) -/

theorem test_decode_nop : decodeWord 0b000_10101011#11 = .nop 0xAB#8 := by decide
theorem test_decode_setsid : decodeWord 0b001_00001001#11 = .setsid 0x09#8 := by decide
theorem test_decode_crcinit : decodeWord 0b010_00000001#11 = .crcinit 0x01#8 := by decide
theorem test_decode_crcfeed : decodeWord 0b011_11111110#11 = .crcfeed 0xFE#8 := by decide
theorem test_decode_sof : decodeWord 0b100_00010000#11 = .sof 0x10#8 := by decide
theorem test_decode_put : decodeWord 0b101_11101000#11 = .put 0xE8#8 := by decide
theorem test_decode_eof : decodeWord 0b110_01011010#11 = .eof 0x5A#8 := by decide
theorem test_decode_reserved : decodeWord 0b111_11011101#11 = .reserved 0xDD#8 := by decide

/-- R31 and V7's READ_FRAME 0x07D0, 6 for slave 0x09. -/
theorem test_decode_read_frame :
    decodeFrame [0x09#8, 0x03#8, 0x07#8, 0xD0#8, 0x06#8, 0x94#8, 0x46#8] =
      .ok (0x09#8, .readHoldingFrame 0x07D0#16 0x06#8) := by decide +kernel

/-- R32 and V7's WRITE_FRAME 0x03E8, 0x1234, 0xABCD for slave 0x09. -/
theorem test_decode_write_frame :
    decodeFrame [0x09#8, 0x10#8, 0x03#8, 0xE8#8, 0x00#8, 0x02#8, 0x04#8, 0x12#8, 0x34#8, 0xAB#8,
      0xCD#8, 0x38#8, 0xC2#8] =
      .ok (0x09#8, .writeMultipleFrame 0x03E8#16 [0x1234#16, 0xABCD#16]) := by decide +kernel

/-- The CRC field the other way round (conflict C2), and V7's FRAME 0x10, which is of neither layout. -/
theorem test_decode_rejects_by_name :
    decodeFrame [0x09#8, 0x03#8, 0x07#8, 0xD0#8, 0x06#8, 0x46#8, 0x94#8] = .error .badCrc ∧
    decodeFrame [0x09#8, 0x10#8, 0x06#8, 0x2C#8] = .error .badLength ∧
    decodeFrame [0x09#8, 0x10#8, 0x06#8] = .error .tooShort := by decide +kernel

/-- The host's numbering: a frame's byte k is bits 8k+7 .. 8k; a command word fills its low 11 bits. -/
theorem test_decode_table_word :
    decodeTableWord 16 0x410 = some (.sof 0x10#8) ∧ decodeTableWord 16 0x810 = none ∧
    decodeTableWord 56 0x469406D0070309 = some (.readHoldingFrame 0x07D0#16 0x06#8) := by
  decide +kernel

/-! ## The CRC -/

/-- V5. -/
theorem test_crc_step_corners :
    crcStep 0x0000#16 0x00#8 = 0x0000#16 ∧ crcStep 0x0000#16 0x01#8 = 0xC0C1#16 ∧
    crcStep 0x0000#16 0x80#8 = 0xA001#16 ∧ crcStep 0x0000#16 0xFF#8 = 0x4040#16 ∧
    crcStep 0x0001#16 0x00#8 = 0xC0C1#16 ∧ crcStep 0x8000#16 0x00#8 = 0x0080#16 ∧
    crcStep 0xA001#16 0x00#8 = 0xC061#16 ∧ crcStep 0xFFFF#16 0x00#8 = 0x40BF#16 ∧
    crcStep 0xFFFF#16 0xFF#8 = 0x00FF#16 ∧ crcStep 0x1234#16 0x56#8 = 0xE993#16 ∧
    crcStep 0x4694#16 0x94#8 = 0x0046#16 := by decide

/-- V1 to V3: "123456789" and two corners. -/
theorem test_compute_crc :
    computeCrc [0x31#8, 0x32#8, 0x33#8, 0x34#8, 0x35#8, 0x36#8, 0x37#8, 0x38#8, 0x39#8] =
      0x4B37#16 ∧
    computeCrc [0xFF#8, 0xFF#8] = 0x0000#16 ∧
    computeCrc (List.replicate 8 0x00#8) = 0x0B40#16 := by decide +kernel

/-- Rows 00 to 38 of V4. -/
def v4Part0 : List Word16 :=
  [0x0000#16, 0xC0C1#16, 0xC181#16, 0x0140#16, 0xC301#16, 0x03C0#16, 0x0280#16, 0xC241#16] ++
  [0xC601#16, 0x06C0#16, 0x0780#16, 0xC741#16, 0x0500#16, 0xC5C1#16, 0xC481#16, 0x0440#16] ++
  [0xCC01#16, 0x0CC0#16, 0x0D80#16, 0xCD41#16, 0x0F00#16, 0xCFC1#16, 0xCE81#16, 0x0E40#16] ++
  [0x0A00#16, 0xCAC1#16, 0xCB81#16, 0x0B40#16, 0xC901#16, 0x09C0#16, 0x0880#16, 0xC841#16] ++
  [0xD801#16, 0x18C0#16, 0x1980#16, 0xD941#16, 0x1B00#16, 0xDBC1#16, 0xDA81#16, 0x1A40#16] ++
  [0x1E00#16, 0xDEC1#16, 0xDF81#16, 0x1F40#16, 0xDD01#16, 0x1DC0#16, 0x1C80#16, 0xDC41#16] ++
  [0x1400#16, 0xD4C1#16, 0xD581#16, 0x1540#16, 0xD701#16, 0x17C0#16, 0x1680#16, 0xD641#16] ++
  [0xD201#16, 0x12C0#16, 0x1380#16, 0xD341#16, 0x1100#16, 0xD1C1#16, 0xD081#16, 0x1040#16]

/-- Rows 40 to 78 of V4. -/
def v4Part1 : List Word16 :=
  [0xF001#16, 0x30C0#16, 0x3180#16, 0xF141#16, 0x3300#16, 0xF3C1#16, 0xF281#16, 0x3240#16] ++
  [0x3600#16, 0xF6C1#16, 0xF781#16, 0x3740#16, 0xF501#16, 0x35C0#16, 0x3480#16, 0xF441#16] ++
  [0x3C00#16, 0xFCC1#16, 0xFD81#16, 0x3D40#16, 0xFF01#16, 0x3FC0#16, 0x3E80#16, 0xFE41#16] ++
  [0xFA01#16, 0x3AC0#16, 0x3B80#16, 0xFB41#16, 0x3900#16, 0xF9C1#16, 0xF881#16, 0x3840#16] ++
  [0x2800#16, 0xE8C1#16, 0xE981#16, 0x2940#16, 0xEB01#16, 0x2BC0#16, 0x2A80#16, 0xEA41#16] ++
  [0xEE01#16, 0x2EC0#16, 0x2F80#16, 0xEF41#16, 0x2D00#16, 0xEDC1#16, 0xEC81#16, 0x2C40#16] ++
  [0xE401#16, 0x24C0#16, 0x2580#16, 0xE541#16, 0x2700#16, 0xE7C1#16, 0xE681#16, 0x2640#16] ++
  [0x2200#16, 0xE2C1#16, 0xE381#16, 0x2340#16, 0xE101#16, 0x21C0#16, 0x2080#16, 0xE041#16]

/-- Rows 80 to B8 of V4. -/
def v4Part2 : List Word16 :=
  [0xA001#16, 0x60C0#16, 0x6180#16, 0xA141#16, 0x6300#16, 0xA3C1#16, 0xA281#16, 0x6240#16] ++
  [0x6600#16, 0xA6C1#16, 0xA781#16, 0x6740#16, 0xA501#16, 0x65C0#16, 0x6480#16, 0xA441#16] ++
  [0x6C00#16, 0xACC1#16, 0xAD81#16, 0x6D40#16, 0xAF01#16, 0x6FC0#16, 0x6E80#16, 0xAE41#16] ++
  [0xAA01#16, 0x6AC0#16, 0x6B80#16, 0xAB41#16, 0x6900#16, 0xA9C1#16, 0xA881#16, 0x6840#16] ++
  [0x7800#16, 0xB8C1#16, 0xB981#16, 0x7940#16, 0xBB01#16, 0x7BC0#16, 0x7A80#16, 0xBA41#16] ++
  [0xBE01#16, 0x7EC0#16, 0x7F80#16, 0xBF41#16, 0x7D00#16, 0xBDC1#16, 0xBC81#16, 0x7C40#16] ++
  [0xB401#16, 0x74C0#16, 0x7580#16, 0xB541#16, 0x7700#16, 0xB7C1#16, 0xB681#16, 0x7640#16] ++
  [0x7200#16, 0xB2C1#16, 0xB381#16, 0x7340#16, 0xB101#16, 0x71C0#16, 0x7080#16, 0xB041#16]

/-- Rows C0 to F8 of V4. -/
def v4Part3 : List Word16 :=
  [0x5000#16, 0x90C1#16, 0x9181#16, 0x5140#16, 0x9301#16, 0x53C0#16, 0x5280#16, 0x9241#16] ++
  [0x9601#16, 0x56C0#16, 0x5780#16, 0x9741#16, 0x5500#16, 0x95C1#16, 0x9481#16, 0x5440#16] ++
  [0x9C01#16, 0x5CC0#16, 0x5D80#16, 0x9D41#16, 0x5F00#16, 0x9FC1#16, 0x9E81#16, 0x5E40#16] ++
  [0x5A00#16, 0x9AC1#16, 0x9B81#16, 0x5B40#16, 0x9901#16, 0x59C0#16, 0x5880#16, 0x9841#16] ++
  [0x8801#16, 0x48C0#16, 0x4980#16, 0x8941#16, 0x4B00#16, 0x8BC1#16, 0x8A81#16, 0x4A40#16] ++
  [0x4E00#16, 0x8EC1#16, 0x8F81#16, 0x4F40#16, 0x8D01#16, 0x4DC0#16, 0x4C80#16, 0x8C41#16] ++
  [0x4400#16, 0x84C1#16, 0x8581#16, 0x4540#16, 0x8701#16, 0x47C0#16, 0x4680#16, 0x8641#16] ++
  [0x8201#16, 0x42C0#16, 0x4380#16, 0x8341#16, 0x4100#16, 0x81C1#16, 0x8081#16, 0x4040#16]

/-- V4: the whole table of R39. -/
theorem test_crc_table :
    (List.range 256).map (fun k => crcTable (BitVec.ofNat 8 k)) =
      v4Part0 ++ (v4Part1 ++ (v4Part2 ++ v4Part3)) := by decide +kernel

/-! ## One step of each command: the rows of V6 -/

theorem test_nop :
    accepted s2 0x000#11 = some ([], 0x032C06#21) ∧
    accepted State.reset 0x0AB#11 = some ([], 0x00FFFF#21) := by decide

theorem test_setsid :
    accepted State.reset 0x109#11 = some ([], 0x02FFFF#21) ∧
    accepted s2 0x100#11 = some ([], 0x172C06#21) ∧
    accepted (failed .reservedOp State.reset) 0x109#11 = some ([], 0x0EFFFF#21) := by decide

/-- V6: `sid` is not in STATUS. -/
theorem test_setsid_writes_sid :
    (next? (exec (.setsid 0xFF#8) s1)).map State.sid = some 0xFF#8 ∧
    (next? (exec (.setsid 0x00#8) s2)).map State.sid = some 0x09#8 := by decide

theorem test_crcinit :
    accepted { s1 with crc := 0x4694#16 } 0x200#11 = some ([], 0x02FFFF#21) ∧
    accepted s2 0x200#11 = some ([], 0x172C06#21) := by decide

theorem test_crcfeed :
    accepted s1 0x300#11 = some ([], 0x0240BF#21) ∧
    accepted s1 0x3FF#11 = some ([], 0x0200FF#21) ∧
    accepted s2 0x300#11 = some ([], 0x172C06#21) := by decide

theorem test_sof_opens :
    accepted s1 0x410#11 = some ([0x09#8, 0x10#8], 0x032C06#21) ∧
    accepted { s1 with sid := 0x00#8 } 0x400#11 = some ([0x00#8, 0x00#8], 0x03B001#21) ∧
    accepted { s1 with crc := 0x1234#16 } 0x410#11 = some ([0x09#8, 0x10#8], 0x032C06#21) := by
  decide +kernel

theorem test_sof_errors :
    accepted State.reset 0x403#11 = some ([], 0x1CFFFF#21) ∧
    accepted s2 0x403#11 = some ([], 0x172C06#21) := by decide

theorem test_put :
    accepted s2 0x503#11 = some ([0x03#8], 0x0303EC#21) ∧
    accepted s1 0x503#11 = some ([], 0x16FFFF#21) := by decide

theorem test_eof :
    accepted s2 0x65A#11 = some ([0x06#8, 0x2C#8], 0x022C06#21) ∧
    accepted s1 0x600#11 = some ([], 0x16FFFF#21) := by decide

theorem test_reserved :
    accepted s1 0x700#11 = some ([], 0x0EFFFF#21) ∧
    accepted s2 0x7FF#11 = some ([], 0x0F2C06#21) ∧
    accepted (failed .sidUnset State.reset) 0x700#11 = some ([], 0x1CFFFF#21) := by decide

/-! ## Frames: V7, and the bound of R57 -/

/-- 00 03 00 00 00 24 44. -/
theorem test_read_frame :
    (next? (exec (.readHoldingFrame 0x0000#16 0x00#8) { s1 with sid := 0x00#8 })).map State.out =
      some [0x00#8, 0x03#8, 0x00#8, 0x00#8, 0x00#8, 0x24#8, 0x44#8] := by decide +kernel

/-- FF 10 FF FF 00 01 02 FF FF F4 84. -/
theorem test_write_frame :
    (next? (exec (.writeMultipleFrame 0xFFFF#16 [0xFFFF#16]) { s1 with sid := 0xFF#8 })).map
        State.out =
      some [0xFF#8, 0x10#8, 0xFF#8, 0xFF#8, 0x00#8, 0x01#8, 0x02#8, 0xFF#8, 0xFF#8, 0xF4#8,
        0x84#8] := by decide +kernel

/-- No values, and 128. -/
theorem test_write_frame_refused :
    refusedWith .writeFrameWithoutValues (exec (.writeMultipleFrame 0x0000#16 []) s1) = true ∧
    refusedWith .writeFrameTooLong
      (exec (.writeMultipleFrame 0x0000#16 (List.replicate 128 0x0000#16)) s1) = true := by
  decide +kernel

/-- V7: the header of the frame with 127 values, and its length 263. -/
theorem test_write_frame_of_127_values :
    (writePayload 0x0000#16 (List.replicate 127 0xFFFF#16)).take 6 =
      [0x00#8, 0x00#8, 0x00#8, 0x7F#8, 0xFE#8, 0xFF#8] ∧
    (writePayload 0x0000#16 (List.replicate 127 0xFFFF#16)).length + 4 = 263 := by decide +kernel

/-- V7 and P1's end STATUS. -/
theorem test_activate :
    issued s1 .activate =
      some ([0x09#8, 0x10#8, 0x03#8, 0xE8#8, 0x00#8, 0x03#8, 0x06#8, 0x01#8, 0x00#8, 0x00#8,
        0x00#8, 0x00#8, 0x00#8, 0x72#8, 0xE1#8], 0x02E172#21) := by decide +kernel

/-- V7 and P2's end STATUS. -/
theorem test_deactivate :
    issued s1 .deactivate =
      some ([0x09#8, 0x10#8, 0x03#8, 0xE8#8, 0x00#8, 0x03#8, 0x06#8, 0x00#8, 0x00#8, 0x00#8,
        0x00#8, 0x00#8, 0x00#8, 0x73#8, 0x30#8], 0x023073#21) := by decide +kernel

/-- P3's end STATUS. -/
theorem test_crc16 :
    issued State.reset
        (.crc16 [0x31#8, 0x32#8, 0x33#8, 0x34#8, 0x35#8, 0x36#8, 0x37#8, 0x38#8, 0x39#8]) =
      some ([], 0x004B37#21) := by decide +kernel

/-- P6: a reset inside a frame keeps the bytes; then FRAME 0x10. -/
theorem test_reset_inside_a_frame :
    row State.reset (performAll [.cmd 0x109#11, .cmd 0x403#11, .cmd 0x500#11, .reset, .cmd 0x109#11,
        .pseudo (.frame 0x10#8 [])] State.reset) =
      some ([0x09#8, 0x03#8, 0x00#8, 0x09#8, 0x10#8, 0x06#8, 0x2C#8], 0x022C06#21) := by
  decide +kernel

/-- The refusals and the nearest accepted forms below V7. -/
theorem test_assembler_refusals :
    assembleLine "WRITE_FRAME 0x0000".toList = .error .noValues ∧
    assembleLine "READ_FRAME 0x10000, 1".toList = .error .word16DoesNotFit ∧
    assembleLine "READ_FRAME 0x0000, 256".toList = .error .byteDoesNotFit ∧
    assembleLine "WRITE_FRAME 0x0000, 0x10000".toList = .error .word16DoesNotFit ∧
    assemble (.writeFrame 0 (List.replicate 128 0)) = .error .tooManyValues := by decide +kernel

/-- P1's first two lines give P1's word stream. -/
theorem test_assembler_text :
    assembleText "SETSID 0x09   ; 0x109\nACTIVATE\n".toList =
      .ok [0x109#11, 0x410#11, 0x503#11, 0x5E8#11, 0x500#11, 0x503#11, 0x506#11, 0x501#11, 0x500#11,
        0x500#11, 0x500#11, 0x500#11, 0x500#11, 0x600#11] := by decide

/-! ## Witnesses: for each statement with hypotheses, inputs that meet them -/

/-- A command of every op, in the order of the ops. -/
def everyCommand : List Instr :=
  [.nop 0xAB#8, .setsid 0x09#8, .crcinit 0x00#8, .crcfeed 0xFF#8, .sof 0x10#8, .put 0x00#8,
    .eof 0x5A#8, .reserved 0xFF#8]

/-- A frame's inside: PUTs, and commands an open frame refuses. -/
def inside : List Instr := [.put 0x07#8, .sof 0x10#8, .nop 0x00#8, .put 0xFF#8, .setsid 0x00#8]

theorem witness_EveryWordDecodesByItsOp :
    (failed .badMode s1).mode = s1.mode ∧ (failed .badMode s1).sidValid = s1.sidValid := by
  decide

/-- The least and the greatest number of values. -/
theorem witness_DecodeOfEncode :
    (∀ i ∈ everyCommand, i.wf = true) ∧ (Instr.readHoldingFrame 0xFFFF#16 0x00#8).wf = true ∧
    (Instr.writeMultipleFrame 0x0000#16 [0x0000#16]).wf = true ∧
    (Instr.writeMultipleFrame 0x0000#16 (List.replicate 127 0xFFFF#16)).wf = true := by
  decide +kernel

theorem witness_EncodeOfDecode :
    decode (.word 0x7FF#11) = .ok (.reserved 0xFF#8) ∧
    decode (.frame [0x00#8, 0x03#8, 0x00#8, 0x00#8, 0x00#8, 0x24#8, 0x44#8]) =
      .ok (.readHoldingFrame 0x0000#16 0x00#8) := by decide +kernel

theorem witness_DataFieldTakenUnchangedOrIgnored :
    opField 0x1FF#11 = 1#3 ∧ opField 0x300#11 = 3#3 ∧ opField 0x4FF#11 = 4#3 ∧
    opField 0x500#11 = 5#3 := by decide

/-- Both ends of 0x700 to 0x7FF, and the last word below. -/
theorem witness_OnlyOpSevenIsReserved :
    0x700 ≤ (0x700#11 : CmdWord).toNat ∧ 0x700 ≤ (0x7FF#11 : CmdWord).toNat ∧
    (0x6FF#11 : CmdWord).toNat < 0x700 ∧ (0x000#11 : CmdWord).toNat < 0x700 := by decide

theorem witness_FrameLengthIsToldByItsBytes :
    (Instr.readHoldingFrame 0x07D0#16 0x06#8).wf = true ∧
    encode 0x09#8 (.readHoldingFrame 0x07D0#16 0x06#8) =
      .frame [0x09#8, 0x03#8, 0x07#8, 0xD0#8, 0x06#8, 0x94#8, 0x46#8] ∧
    (Instr.writeMultipleFrame 0x0000#16 [0x0000#16]).wf = true ∧
    encode 0x01#8 (.writeMultipleFrame 0x0000#16 [0x0000#16]) =
      .frame [0x01#8, 0x10#8, 0x00#8, 0x00#8, 0x00#8, 0x01#8, 0x02#8, 0x00#8, 0x00#8, 0xA6#8,
        0x50#8] := by decide +kernel

theorem witness_OperandsThatDoNotFitAreRefused : s1.mode = .idle ∧ s1.sidValid = true := by
  decide

theorem witness_AssemblerGivesTheExpansions :
    1 ≤ [0x0000#16].length ∧ [0x0000#16].length ≤ 127 ∧
    1 ≤ (List.replicate 127 0xFFFF#16).length ∧ (List.replicate 127 0xFFFF#16).length ≤ 127 := by
  decide +kernel

theorem witness_CrcOfAWholeFrameIsZero :
    s1.mode = .idle ∧ s1.sidValid = true ∧ staysOpen inside = true ∧ staysOpen [] = true := by
  decide

theorem witness_SetsidSetsTheSlaveId :
    s1.mode = .idle ∧ s1.sidValid = true ∧ s2.mode = .opened ∧
    exec (.setsid 0x09#8) (resetBlock s2) =
      .next { resetBlock s2 with sid := 0x09#8, sidValid := true } :=
  ⟨rfl, rfl, rfl, of_next? (by decide)⟩

theorem witness_EveryCommandCompletes : ∀ i ∈ everyCommand, isCommand i = true := by decide

theorem witness_CrcinitResetsTheCrc :
    s1.mode = .idle ∧ s2.mode = .opened ∧ s1.crc = 0xFFFF#16 ∧
    exec (.crcinit 0x00#8) { s1 with crc := 0x4694#16 } = .next s1 :=
  ⟨rfl, rfl, rfl, of_next? (by decide)⟩

theorem witness_CrcfeedFoldsOneByte :
    s1.mode = .idle ∧ s1.crc = 0xFFFF#16 ∧ s2.mode = .opened := by decide

/-- IDLE with and without a slave id, and OPEN. -/
theorem witness_SofStartsAFrame :
    s1.mode = .idle ∧ s1.sidValid = true ∧ s1.sid = 0x09#8 ∧ State.reset.mode = .idle ∧
    State.reset.sidValid = false ∧ s2.mode = .opened ∧
    exec (.sof 0x10#8) s1 = .next s2 :=
  ⟨rfl, rfl, rfl, rfl, rfl, rfl, of_next? (by decide +kernel)⟩

theorem witness_PutAppendsOneByte : s2.mode = .opened ∧ s2.crc = 0x2C06#16 ∧ s1.mode = .idle := by
  decide

theorem witness_EofClosesTheFrame :
    s1.mode = .idle ∧ s1.sidValid = true ∧
    ({ s2 with crc := 0x4694#16 } : State).mode = .opened ∧
    exec (.eof 0x00#8) s2 =
      .next { s2 with out := [0x09#8, 0x10#8, 0x06#8, 0x2C#8], mode := .idle } ∧
    isCommand (.setsid 0x09#8) = true ∧ exec (.setsid 0x09#8) s1 = .next s1 :=
  ⟨rfl, rfl, rfl, rfl, rfl, rfl⟩

/-- Commands that run, one that errs, and states that differ in one element a command does not read. -/
theorem witness_CommandsReadAndWriteOnlyTheirRow :
    raises (.put 0x03#8) s2 = none ∧ raises (.sof 0x10#8) s1 = none ∧
    raises (.eof 0x00#8) s2 = none ∧ raises (.crcinit 0x00#8) s1 = none ∧
    raises (.setsid 0x07#8) s1 = none ∧ raises (.put 0x03#8) s1 = some .badMode ∧
    exec (.sof 0x10#8) s1 = .next s2 ∧ exec (.sof 0x10#8) { s1 with crc := 0x1234#16 } = .next s2 ∧
    exec (.crcinit 0x00#8) { s1 with crc := 0x1234#16 } = .next s1 ∧
    exec (.setsid 0x07#8) { s1 with sid := 0x55#8, sidValid := false } =
      .next { s1 with sid := 0x07#8 } ∧
    exec (.nop 0x00#8) { s1 with mode := .opened } = .next { s1 with mode := .opened } ∧
    exec (.nop 0x00#8) { s1 with err := true, ecause := .badMode } = .next (failed .badMode s1) ∧
    exec (.nop 0x00#8) { s1 with out := [0xFF#8] } = .next { s1 with out := [0xFF#8] } :=
  ⟨rfl, rfl, rfl, rfl, rfl, rfl, of_next? (by decide +kernel), of_next? (by decide +kernel), rfl, rfl,
    rfl, rfl, rfl⟩

theorem witness_ErrorsAreExactlyTheTable :
    (∀ i ∈ everyCommand, isCommand i = true) ∧ s1.err = false ∧ s1.ecause = .none ∧
    s2.err = false ∧ s2.ecause = .none ∧ State.reset.err = false ∧ State.reset.ecause = .none := by
  decide

/-- Each cause raised somewhere. -/
theorem witness_ErrorIsRecordedAndExecutionGoesOn :
    raises (.reserved 0xFF#8) s2 = some .reservedOp ∧ raises (.put 0x00#8) s1 = some .badMode ∧
    raises (.sof 0x03#8) State.reset = some .sidUnset := by decide

theorem witness_ErrorPriority :
    s2.mode = .opened ∧ State.reset.mode = .idle ∧ State.reset.sidValid = false ∧
    s1.mode = .idle ∧ s1.sidValid = true ∧ raises (.put 0x00#8) s1 = some .badMode ∧
    ¬ (s1.mode = .opened ∧ s1.sidValid = false) ∧
    step { s1 with inbox := [.cmd 0x410#11] } = .next s2 :=
  ⟨rfl, rfl, rfl, rfl, rfl, rfl, by decide, of_next? (by decide +kernel)⟩

theorem witness_OnlyResetClearsAnError :
    step { failed .sidUnset s1 with inbox := [.cmd 0x7FF#11] } = .next (failed .sidUnset s1) ∧
    step { failed .sidUnset s1 with inbox := [.reset] } = .next State.reset :=
  ⟨of_next? (by decide), of_next? (by decide)⟩

theorem witness_ErrZeroMeansEveryCommandRan :
    (∀ j ∈ [Instr.sof 0x10#8] ++ .put 0x03#8 :: [.eof 0x00#8], isCommand j = true) ∧
    execAll [.sof 0x10#8] s1 = .next s2 ∧
    (next? (execAll ([.sof 0x10#8] ++ .put 0x03#8 :: [.eof 0x00#8]) s1)).map State.clean =
      some true :=
  ⟨by decide, of_next? (by decide +kernel), by decide⟩

/-- SOF, EOF, a frame issued in OPEN, and a reset in OPEN. -/
theorem witness_ModeIsWrittenOnlyBySofEofAndReset :
    exec (.sof 0x10#8) s1 = .next s2 ∧ s2.mode ≠ s1.mode ∧
    (next? (exec (.eof 0x00#8) s2)).map State.mode = some .idle ∧
    (next? (step { s2 with inbox := [.cmd 0x600#11] })).map State.mode = some .idle ∧
    (next? (step { s2 with inbox := [.pseudo .activate] })).map State.mode = some .idle ∧
    (next? (step { s2 with inbox := [.reset] })).map State.mode = some .idle :=
  ⟨of_next? (by decide +kernel), by decide, by decide, by decide,
    by decide, by decide⟩

/-- Two slave ids that no SETSID gave, with a SOF to come. -/
theorem witness_UnsetSlaveIdIsNeverRead :
    SameButUnsetSid { State.reset with inbox := [.cmd 0x410#11] }
      { State.reset with inbox := [.cmd 0x410#11], sid := 0xFF#8 } := ⟨rfl, rfl, rfl⟩

theorem witness_OutOnlyGrows :
    step { s1 with inbox := [.cmd 0x410#11] } = .next s2 ∧ exec (.sof 0x10#8) s1 = .next s2 :=
  ⟨of_next? (by decide +kernel), of_next? (by decide +kernel)⟩

theorem witness_ResetState :
    ({ s2 with inbox := [.reset, .take] } : State).inbox = .reset :: [.take] ∧
    ({ rst := true, cmd := 0x410#11, cmdValid := true, txReady := true } : PortsIn).rst = true :=
  ⟨rfl, rfl⟩

/-- One byte transferred before the reset, and one after. -/
theorem witness_ResetKeepsEmittedBytes :
    ({ s2 with taken := 1 } : State).taken ≤ ({ s2 with taken := 1 } : State).out.length ∧
    (next? (performAll (.reset :: [.take]) { s2 with taken := 1 })).map State.sent =
      some [0x09#8, 0x10#8] ∧
    s2.mode = .opened := by decide

/-- The CRC of S2's two bytes (V3). -/
theorem s2_crc : 0x2C06#16 = computeCrc [0x09#8, 0x10#8] := by decide +kernel

/-- The invariant of an open frame's state. -/
theorem s2_inv (es : List Input) : Inv { s2 with inbox := es } where
  errIffCause := by simp [s2, s1, State.reset]
  openNeedsSid := by simp [s2, s1]
  openFrame := fun _ => ⟨[], 0x10#8, [], rfl, s2_crc⟩
  takenBound := by simp [s2, s1, State.reset]

theorem witness_StepKeepsInvariant :
    Inv { s2 with inbox := [.cmd 0x503#11] } ∧
    (next? (step { s2 with inbox := [.cmd 0x503#11] })).isSome = true :=
  ⟨s2_inv _, by decide⟩

theorem witness_StepRunsTheDecodedInstruction :
    ({ s1 with inbox := [.cmd 0x410#11] } : State).inbox = .cmd 0x410#11 :: [] ∧
    ({ s1 with inbox := [.pseudo (.readFrame 0x07D0#16 0x06#8)] } : State).inbox =
      inputOf (.readHoldingFrame 0x07D0#16 0x06#8) :: [] ∧
    State.reset.inbox = [] := ⟨rfl, rfl, rfl⟩

/-- The greatest command word, and a frame. -/
theorem witness_FetchWordRunsTheInstruction :
    decodeTableWord 16 0x7FF = some (.reserved 0xFF#8) ∧
    decodeTableWord 56 0x469406D0070309 = some (.readHoldingFrame 0x07D0#16 0x06#8) := by
  decide +kernel

theorem witness_CommandsAreTheLeftFoldOfTheStep :
    ({ s1 with inbox := [.cmd 0x410#11, .cmd 0x600#11, .reset] } : State).inbox =
      [0x410#11, 0x600#11].map .cmd ++ [.reset] := rfl

/-- A cycle that transfers S2's first byte, and one in which the channel takes none. -/
theorem witness_BytesLeaveInOrder :
    Inv { s2 with inbox := [.take] } ∧
    step { s2 with inbox := [.take] } = .next { s2 with taken := 1 } ∧
    ({ s2 with taken := 1, inbox := [.take] } : State).taken <
      ({ s2 with taken := 1, inbox := [.take] } : State).out.length ∧
    transfers { ready := false, shown := true, statusAfter := false }
      { rst := false, cmd := 0x000#11, cmdValid := false, txReady := true } s2 = true ∧
    transfers { ready := false, shown := true, statusAfter := false }
      { rst := false, cmd := 0x000#11, cmdValid := false, txReady := false } s2 = false ∧
    s2.taken ≤ s2.out.length := ⟨s2_inv _, rfl, by decide, rfl, rfl, by decide⟩

/-- A cycle that neither accepts a command nor resets. -/
theorem witness_StatusLayout :
    accepts { ready := false, shown := true, statusAfter := true }
      { rst := false, cmd := 0x410#11, cmdValid := true, txReady := false } = false ∧
    ({ rst := false, cmd := 0x410#11, cmdValid := true, txReady := false } : PortsIn).rst = false := by
  decide

/-- A cycle that neither accepts nor resets, one that accepts, and one that resets. -/
theorem witness_StatusInAnAcceptanceCycle :
    accepts { ready := false, shown := true, statusAfter := true }
      { rst := false, cmd := 0x410#11, cmdValid := true, txReady := false } = false ∧
    accepts { ready := true, shown := true, statusAfter := true }
      { rst := false, cmd := 0x410#11, cmdValid := true, txReady := false } = true ∧
    ({ rst := true, cmd := 0x410#11, cmdValid := true, txReady := false } : PortsIn).rst = true := by
  decide

theorem witness_FrameContent :
    s1.mode = .idle ∧ s1.sidValid = true ∧ staysOpen inside = true ∧ staysOpen [] = true ∧
    s2.mode = .opened ∧ exec (.nop 0x00#8) s2 = .next s2 ∧
    exec (.sof 0x03#8) s2 = .next (failed .badMode s2) := ⟨rfl, rfl, rfl, rfl, rfl, rfl, rfl⟩

/-- Two states that agree on `sid` and differ in `crc`, `out` and the error; two insides with the same
PUTs. -/
theorem witness_EmittedBytesDependOnSlaveIdAndCommandsOnly :
    s1.mode = .idle ∧ s1.sidValid = true ∧
    (failed .badMode { s1 with crc := 0x1234#16, out := [0x00#8] }).mode = .idle ∧
    (failed .badMode { s1 with crc := 0x1234#16, out := [0x00#8] }).sidValid = true ∧
    s1.sid = (failed .badMode { s1 with crc := 0x1234#16, out := [0x00#8] }).sid ∧
    (∀ i ∈ everyCommand, isCommand i = true) ∧
    staysOpen inside = true ∧ staysOpen [.put 0x07#8, .put 0xFF#8] = true ∧
    payloadOf inside = payloadOf [.put 0x07#8, .put 0xFF#8] := by decide

/-- After the frame, commands that do not write the CRC, one of them an error. -/
theorem witness_StatusShowsTheFrameCrc :
    s1.mode = .idle ∧ s1.sidValid = true ∧ staysOpen inside = true ∧
    ∀ i ∈ [Instr.nop 0x00#8, .setsid 0x01#8, .put 0x00#8, .reserved 0x00#8],
      isCommand i = true ∧ ∀ d, i ≠ .crcinit d ∧ i ≠ .crcfeed d ∧ i ≠ .sof d := by
  refine ⟨rfl, rfl, rfl, ?_⟩
  intro i hi
  simp only [List.mem_cons, List.not_mem_nil, or_false] at hi
  rcases hi with rfl | rfl | rfl | rfl <;> simp [isCommand, encodeWord]

theorem witness_Crc16LeavesTheCrcOfItsBytes : s1.mode = .idle ∧ s2.mode = .opened := by
  decide

theorem witness_FrameEmitsItsBytesAndTheirCrc : s1.mode = .idle ∧ s1.sidValid = true := by
  decide

theorem witness_ReadFrameEmitsSevenBytes : s1.mode = .idle ∧ s1.sidValid = true := by decide

/-- One value and 127. -/
theorem witness_WriteFrameEmitsNinePlusTwoNBytes :
    s1.mode = .idle ∧ s1.sidValid = true ∧ 1 ≤ [0x0000#16].length ∧ [0x0000#16].length ≤ 127 ∧
    1 ≤ (List.replicate 127 0xFFFF#16).length ∧ (List.replicate 127 0xFFFF#16).length ≤ 127 := by
  decide +kernel

theorem witness_ActivateAndDeactivateFrames :
    s1.mode = .idle ∧ s1.sidValid = true ∧ s1.sid = 0x09#8 := by decide

/-- Without a slave id, and in a frame already open. -/
theorem witness_FramePreconditions :
    Pseudo.activate.fits = true ∧
    Pseudo.activate.frameParts = some (0x10#8, [0x03#8, 0xE8#8, 0x00#8, 0x03#8, 0x06#8, 0x01#8,
      0x00#8, 0x00#8, 0x00#8, 0x00#8, 0x00#8]) ∧
    State.reset.mode = .idle ∧ State.reset.sidValid = false ∧ s2.mode = .opened ∧
    s2.out = [] ++ [0x09#8, 0x10#8] ∧ s2.crc = computeCrc [0x09#8, 0x10#8] ∧
    (next? (perform (.pseudo (.frame 0x03#8 [0x07#8])) s2)).isSome = true := by decide +kernel

/-- A read frame, and a write frame's first and last value. -/
theorem witness_AddressAndValueOffsets :
    (Instr.readHoldingFrame 0x07D0#16 0x06#8).wf = true ∧
    isCommand (.readHoldingFrame 0x07D0#16 0x06#8) = false ∧
    s1.mode = .idle ∧ s1.sidValid = true ∧
    (next? (exec (.readHoldingFrame 0x07D0#16 0x06#8) s1)).isSome = true ∧
    encode 0x09#8 (.readHoldingFrame 0x07D0#16 0x06#8) =
      .frame [0x09#8, 0x03#8, 0x07#8, 0xD0#8, 0x06#8, 0x94#8, 0x46#8] ∧
    encode 0x09#8 (.writeMultipleFrame 0x03E8#16 [0x1234#16, 0xABCD#16]) =
      .frame [0x09#8, 0x10#8, 0x03#8, 0xE8#8, 0x00#8, 0x02#8, 0x04#8, 0x12#8, 0x34#8, 0xAB#8,
        0xCD#8, 0x38#8, 0xC2#8] ∧
    [0x1234#16, 0xABCD#16][0]? = some 0x1234#16 ∧
    [0x1234#16, 0xABCD#16][1]? = some 0xABCD#16 := by decide +kernel

theorem witness_LastTwoBytesAreTheCrc :
    Pseudo.deactivate.fits = true ∧ Pseudo.deactivate.frameParts.isSome = true ∧
    (Pseudo.readFrame 0xFFFF#16 0xFF#8).fits = true ∧
    (Pseudo.readFrame 0xFFFF#16 0xFF#8).frameParts.isSome = true ∧
    s1.mode = .idle ∧ s1.sidValid = true := by decide

/-- Every pseudo-instruction, the write frame with its greatest number of values. -/
theorem witness_PseudoInstructionIsItsWords :
    ∀ p ∈ [Pseudo.crc16 [0x31#8], .frame 0x10#8 [], .readFrame 0x0000#16 0x00#8,
      .writeFrame 0x0000#16 (List.replicate 127 0x0000#16), .activate, .deactivate],
      p.fits = true := by decide +kernel

theorem witness_EmittedFrameDecodesBack :
    (Instr.writeMultipleFrame 0x0000#16 [0x0000#16]).wf = true ∧
    isCommand (.writeMultipleFrame 0x0000#16 [0x0000#16]) = false ∧
    isCommand (.readHoldingFrame 0x0000#16 0x00#8) = false ∧ s1.mode = .idle ∧
    s1.sidValid = true := by decide

/-- The first operands past each field, and the last that fit. -/
theorem witness_CommandOperandsThatDoNotFitAreRefused :
    assemble (.setsid 256) = .error .byteDoesNotFit ∧ assemble (.setsid 255) = .ok [0x1FF#11] ∧
    assemble (.word 2048) = .error .commandWordDoesNotFit ∧
    assemble (.word 2047) = .ok [0x7FF#11] := by decide

theorem witness_OnlyTheWriteFrameThatDoesNotFitIsRefused :
    127 < (List.replicate 128 0x0000#16).length ∧
    (Instr.writeMultipleFrame 0x0000#16 []).wf = false := by decide +kernel

end Sys2Proof.Tests
end

section
/-! Proofs of the obligations on one step (00_scope.md R6, 60_exceptions.md R72). -/

namespace Sys2Proof.Machine

/-- A command word at the head of the inputs is the instruction it decodes to. -/
theorem step_of_cmd {s : State} {w : CmdWord} {rest : List Input} (h : s.inbox = .cmd w :: rest) :
    step s = exec (decodeWord w) { s with inbox := rest } := step_of_input h

/-- An instruction at the head of the inputs, in the form in which it reaches the block (log 4). -/
theorem step_of_inputOf {s : State} {i : Instr} {rest : List Input}
    (h : s.inbox = inputOf i :: rest) : step s = exec i { s with inbox := rest } :=
  (step_of_input h).trans (perform_inputOf i _)

theorem withFetchWord_of_decode {nbits w : Nat} {i : Instr} (h : decodeTableWord nbits w = some i)
    (s : State) : s.withFetchWord nbits w = { s with inbox := inputOf i :: s.inbox } := by
  simp only [State.withFetchWord, h]

/-- Settles O40, one conjunct for each shape of the inputs to come. -/
theorem stepRunsTheDecodedInstruction : Obligations.StepRunsTheDecodedInstruction :=
  ⟨fun _ _ _ => step_of_cmd, fun _ _ _ => step_of_inputOf, fun _ => step_of_no_input⟩

/-- Settles O41: the placed instruction is the head of the inputs, and taking it off gives `s` back. -/
theorem fetchWordRunsTheInstruction : Obligations.FetchWordRunsTheInstruction := by
  intro s nbits w i hdecode
  rw [withFetchWord_of_decode hdecode]
  exact step_of_inputOf rfl

end Sys2Proof.Machine
end

section
/-! What a command can do, said once: it records the error it raises, or it has its effect. The
frame lemmas of the effects are the rows of 10_state.md R15. -/

namespace Sys2Proof.Machine

/-- What a command does where it raises no error (10_state.md R15's column of writes). A frame is no
command and has no row there. -/
def commandEffect (i : Instr) (s : State) : State :=
  match i with
  | .setsid d => { s with sid := d, sidValid := true }
  | .crcinit _ => { s with crc := Config.crcInit }
  | .crcfeed d => foldCrc d s
  | .sof d => openFrame d s
  | .put d => foldCrc d (emit d s)
  | .eof _ => closeFrame s
  | .nop _ | .reserved _ | .readHoldingFrame _ _ | .writeMultipleFrame _ _ => s

/-- The bytes a command emits where it raises no error. -/
def emittedBy (i : Instr) (s : State) : List Byte :=
  match i with
  | .sof d => [s.sid, d]
  | .put d => [d]
  | .eof _ => [lo8 s.crc, hi8 s.crc]
  | .nop _ | .setsid _ | .crcinit _ | .crcfeed _ | .reserved _ | .readHoldingFrame _ _
  | .writeMultipleFrame _ _ => []

/-! ## A command is its check and its effect -/

theorem exec_of_command {i : Instr} (hi : isCommand i = true) (s : State) :
    exec i s = .next (guarded (raises i s) (commandEffect i) s) := by
  cases i with
  | readHoldingFrame a n => cases hi
  | writeMultipleFrame a vs => cases hi
  | _ => rfl

/-- An error takes the command's effect away (60_exceptions.md R64). -/
theorem exec_cases {i : Instr} {s t : State} (hi : isCommand i = true) (h : exec i s = .next t) :
    (∃ k, raises i s = some k ∧ t = record k s) ∨
      (raises i s = none ∧ t = commandEffect i s) := by
  rw [exec_of_command hi] at h
  cases h
  exact guarded_cases _ _ _

theorem record_eq (k : Cause) (s : State) :
    record k s = { s with err := true, ecause := if s.err then s.ecause else k } := by
  obtain ⟨_, _, _, _, err, _, _, _, _⟩ := s
  cases err <;> rfl

/-- Of the state, an error depends on `mode` and `sid_valid` alone (R63). -/
theorem raises_congr {s t : State} (hm : s.mode = t.mode) (hv : s.sidValid = t.sidValid)
    (i : Instr) : raises i s = raises i t := by
  have hidle : checkIdle s = checkIdle t := by rw [checkIdle, checkIdle, hm]
  have hopen : checkOpen s = checkOpen t := by rw [checkOpen, checkOpen, hm]
  have hsof : checkSof s = checkSof t := by rw [checkSof, checkSof, hidle, hv]
  cases i <;> simp [raises, hidle, hopen, hsof]

/-- Only SOF's check looks at `sid_valid` (R63). -/
theorem raises_congr_of_not_sof {s t : State} {i : Instr} (hi : ∀ d, i ≠ .sof d)
    (hm : s.mode = t.mode) : raises i s = raises i t := by
  have hidle : checkIdle s = checkIdle t := by rw [checkIdle, checkIdle, hm]
  have hopen : checkOpen s = checkOpen t := by rw [checkOpen, checkOpen, hm]
  cases i with
  | sof d => exact absurd rfl (hi d)
  | _ => simp [raises, hidle, hopen]

theorem checkIdle_eq_none_iff {s : State} : checkIdle s = none ↔ s.mode = .idle := by
  cases h : s.mode <;> simp [checkIdle, h]

theorem checkOpen_eq_none_iff {s : State} : checkOpen s = none ↔ s.mode = .opened := by
  cases h : s.mode <;> simp [checkOpen, h]

theorem checkSof_eq_none_iff {s : State} :
    checkSof s = none ↔ s.mode = .idle ∧ s.sidValid = true := by
  cases h : s.mode <;> simp [checkSof, checkIdle, h]

/-- The cause of an error is never NONE (R63). -/
theorem raises_ne_noCause (i : Instr) (s : State) : raises i s ≠ some .none := by
  have hidle : checkIdle s ≠ some .none := by cases h : s.mode <;> simp [checkIdle, h]
  have hopen : checkOpen s ≠ some .none := by cases h : s.mode <;> simp [checkOpen, h]
  have hsof : checkSof s ≠ some .none := by
    cases h : s.mode <;> cases hv : s.sidValid <;> simp [checkSof, checkIdle, h, hv]
  cases i <;> simp [raises, hidle, hopen, hsof]

/-! ## What an effect leaves unchanged (R15) -/

@[simp] theorem commandEffect_err (i : Instr) (s : State) : (commandEffect i s).err = s.err := by
  cases i <;> rfl

@[simp] theorem commandEffect_ecause (i : Instr) (s : State) :
    (commandEffect i s).ecause = s.ecause := by cases i <;> rfl

@[simp] theorem commandEffect_taken (i : Instr) (s : State) :
    (commandEffect i s).taken = s.taken := by cases i <;> rfl

@[simp] theorem commandEffect_inbox (i : Instr) (s : State) :
    (commandEffect i s).inbox = s.inbox := by cases i <;> rfl

@[simp] theorem commandEffect_out (i : Instr) (s : State) :
    (commandEffect i s).out = s.out ++ emittedBy i s := by
  cases i <;> simp [commandEffect, emittedBy]

theorem commandEffect_sid {i : Instr} (h : ∀ d, i ≠ .setsid d) (s : State) :
    (commandEffect i s).sid = s.sid ∧ (commandEffect i s).sidValid = s.sidValid := by
  cases i with
  | setsid d => exact absurd rfl (h d)
  | _ => exact ⟨rfl, rfl⟩

theorem commandEffect_mode {i : Instr} (h : ∀ d, i ≠ .sof d ∧ i ≠ .eof d) (s : State) :
    (commandEffect i s).mode = s.mode := by
  cases i with
  | sof d => exact absurd (h d) (by simp)
  | eof x => exact absurd (h x) (by simp)
  | _ => rfl

theorem commandEffect_crc {i : Instr}
    (h : ∀ d, i ≠ .crcinit d ∧ i ≠ .crcfeed d ∧ i ≠ .sof d ∧ i ≠ .put d) (s : State) :
    (commandEffect i s).crc = s.crc := by
  cases i with
  | crcinit x => exact absurd (h x) (by simp)
  | crcfeed d => exact absurd (h d) (by simp)
  | sof d => exact absurd (h d) (by simp)
  | put d => exact absurd (h d) (by simp)
  | _ => rfl

theorem emittedBy_of_silent {i : Instr} (h : ∀ d, i ≠ .sof d ∧ i ≠ .put d ∧ i ≠ .eof d)
    (s : State) : emittedBy i s = [] := by
  cases i with
  | sof d => exact absurd (h d) (by simp)
  | put d => exact absurd (h d) (by simp)
  | eof x => exact absurd (h x) (by simp)
  | _ => rfl

/-- Whether or not it errs, a command only appends to `out` (10_state.md R14). -/
theorem exec_out {i : Instr} {s t : State} (hi : isCommand i = true) (h : exec i s = .next t) :
    t.out = s.out ++ if raises i s = none then emittedBy i s else [] := by
  rcases exec_cases hi h with ⟨k, hk, rfl⟩ | ⟨hn, rfl⟩
  · simp [hk]
  · simp [hn]

theorem exec_taken {i : Instr} {s t : State} (hi : isCommand i = true) (h : exec i s = .next t) :
    t.taken = s.taken := by
  rcases exec_cases hi h with ⟨k, -, rfl⟩ | ⟨-, rfl⟩ <;> simp

theorem exec_inbox {i : Instr} {s t : State} (hi : isCommand i = true) (h : exec i s = .next t) :
    t.inbox = s.inbox := by
  rcases exec_cases hi h with ⟨k, -, rfl⟩ | ⟨-, rfl⟩ <;> simp

/-! ## One command from two states -/

/-- A command that raises the same in two states does the same in both: it records the error, or it
has its effect. -/
theorem exec_pair_cases {i : Instr} {s s' t u : State} (hi : isCommand i = true)
    (ht : exec i s = .next t) (hu : exec i s' = .next u) (hraise : raises i s' = raises i s) :
    (∃ k, raises i s = some k ∧ t = record k s ∧ u = record k s') ∨
      (raises i s = none ∧ t = commandEffect i s ∧ u = commandEffect i s') := by
  rw [exec_of_command hi] at ht hu
  rw [hraise] at hu
  cases ht
  cases hu
  cases h : raises i s with
  | some k => exact .inl ⟨k, rfl, rfl, rfl⟩
  | none => exact .inr ⟨rfl, rfl, rfl⟩

/-! ## Settling O25, one lemma for each clause -/

theorem command_writes_only_its_row {i : Instr} {s t : State} (hi : isCommand i = true)
    (h : exec i s = .next t) :
    t.taken = s.taken ∧ t.inbox = s.inbox ∧
    (raises i s ≠ none → t = { s with err := t.err, ecause := t.ecause }) ∧
    (raises i s = none → t.err = s.err ∧ t.ecause = s.ecause) ∧
    ((∀ d, i ≠ .setsid d) → t.sid = s.sid ∧ t.sidValid = s.sidValid) ∧
    ((∀ d, i ≠ .sof d ∧ i ≠ .eof d) → t.mode = s.mode) ∧
    ((∀ d, i ≠ .crcinit d ∧ i ≠ .crcfeed d ∧ i ≠ .sof d ∧ i ≠ .put d) → t.crc = s.crc) ∧
    ((∀ d, i ≠ .sof d ∧ i ≠ .put d ∧ i ≠ .eof d) → t.out = s.out) := by
  refine ⟨exec_taken hi h, exec_inbox hi h, ?_⟩
  rcases exec_cases hi h with ⟨k, hk, rfl⟩ | ⟨hn, rfl⟩
  · simp [hk, record_eq]
  · refine ⟨fun hne => absurd hn hne, by simp, (commandEffect_sid · s), (commandEffect_mode · s),
      (commandEffect_crc · s), fun hsilent => ?_⟩
    simp [emittedBy_of_silent hsilent]

theorem exec_emits {i : Instr} {s t : State} (hi : isCommand i = true) (h : exec i s = .next t)
    (hn : raises i s = none) :
    t.out.length = s.out.length + (emittedBy i s).length := by simp [exec_out hi h, hn]

theorem command_without_crc_read {i : Instr} {c : Word16} {s t u : State} (hi : isCommand i = true)
    (hread : ∀ d, i ≠ .crcfeed d ∧ i ≠ .put d ∧ i ≠ .eof d)
    (ht : exec i s = .next t) (hu : exec i { s with crc := c } = .next u) :
    { u with crc := t.crc } = t ∧
      ((∃ d, i = .crcinit d ∨ i = .sof d) → raises i s = none → u.crc = t.crc) := by
  rcases exec_pair_cases hi ht hu (raises_congr rfl rfl i) with ⟨k, hk, rfl, rfl⟩ | ⟨-, rfl, rfl⟩
  · simp [record_eq, hk]
  · cases i with
    | crcfeed d => exact absurd (hread d) (by simp)
    | put d => exact absurd (hread d) (by simp)
    | eof x => exact absurd (hread x) (by simp)
    | _ => simp [commandEffect, openFrame, emit]

theorem command_without_mode_read {i : Instr} {m : Mode} {s t u : State} (hi : isCommand i = true)
    (hread : ∃ d, i = .nop d ∨ i = .reserved d)
    (ht : exec i s = .next t) (hu : exec i { s with mode := m } = .next u) :
    { u with mode := t.mode } = t := by
  have hraise : raises i { s with mode := m } = raises i s := by
    obtain ⟨d, rfl | rfl⟩ := hread <;> rfl
  rcases exec_pair_cases hi ht hu hraise with ⟨k, -, rfl, rfl⟩ | ⟨-, rfl, rfl⟩
  · simp [record_eq]
  · obtain ⟨d, rfl | rfl⟩ := hread <;> rfl

theorem command_without_sid_read {i : Instr} {v : Byte} {b : Bool} {s t u : State}
    (hi : isCommand i = true) (hread : ∀ d, i ≠ .sof d)
    (ht : exec i s = .next t) (hu : exec i { s with sid := v, sidValid := b } = .next u) :
    { u with sid := t.sid, sidValid := t.sidValid } = t ∧
      ((∃ d, i = .setsid d) → raises i s = none → u.sid = t.sid ∧ u.sidValid = t.sidValid) := by
  rcases exec_pair_cases hi ht hu (raises_congr_of_not_sof hread rfl) with
    ⟨k, hk, rfl, rfl⟩ | ⟨-, rfl, rfl⟩
  · simp [record_eq, hk]
  · cases i with
    | sof d => exact absurd rfl (hread d)
    | _ => simp [commandEffect, foldCrc, closeFrame, emit]

theorem command_without_error_read {i : Instr} {e : Bool} {k : Cause} {s t u : State}
    (hi : isCommand i = true)
    (ht : exec i s = .next t) (hu : exec i { s with err := e, ecause := k } = .next u) :
    { u with err := t.err, ecause := t.ecause } = t := by
  rcases exec_pair_cases hi ht hu (raises_congr rfl rfl i) with ⟨k, -, rfl, rfl⟩ | ⟨-, rfl, rfl⟩
  · simp [record_eq]
  · cases i <;> rfl

theorem command_without_out_read {i : Instr} {o : List Byte} {s t u : State}
    (hi : isCommand i = true) (ht : exec i s = .next t)
    (hu : exec i { s with out := o } = .next u) :
    { u with out := t.out } = t ∧ ∃ bytes, t.out = s.out ++ bytes ∧ u.out = o ++ bytes := by
  rcases exec_pair_cases hi ht hu (raises_congr rfl rfl i) with ⟨k, -, rfl, rfl⟩ | ⟨-, rfl, rfl⟩
  · simp [record_eq]
  · have hemit : emittedBy i { s with out := o } = emittedBy i s := by cases i <;> rfl
    refine ⟨by cases i <;> rfl, emittedBy i s, commandEffect_out i s, ?_⟩
    rw [commandEffect_out, hemit]

/-- Settles O25: R15's writes, then one clause for each element a command does not read. -/
theorem commandsReadAndWriteOnlyTheirRow : Obligations.CommandsReadAndWriteOnlyTheirRow := by
  refine ⟨fun i s t hi h => ?_, fun _ _ _ _ _ => command_without_crc_read,
    fun _ _ _ _ _ => command_without_mode_read, fun _ _ _ _ _ _ => command_without_sid_read,
    fun _ _ _ _ _ _ => command_without_error_read, fun _ _ _ _ _ => command_without_out_read⟩
  obtain ⟨htaken, hinbox, herr, hran, hsid, hmode, hcrc, hout⟩ := command_writes_only_its_row hi h
  refine ⟨htaken, hinbox, herr, hran, hsid, hmode, hcrc, hout, ?_, ?_⟩
  · rintro ⟨d, rfl⟩ hn
    exact exec_emits hi h hn
  · rintro ⟨d, rfl | rfl⟩ hn
    · exact exec_emits hi h hn
    · exact exec_emits hi h hn

end Sys2Proof.Machine
end

section
/-! What a pseudo-instruction and a step can do, said once (42_frames.md R50 to R56, 00_scope.md
R6). -/

namespace Sys2Proof.Machine

/-! ## Pseudo-instructions in each mode -/

/-- After an EOF, discarded or not, no frame is open (41_serializer.md R46). -/
@[simp] theorem eof_mode (s : State) : (eof s).mode = .idle := by
  cases h : s.mode with
  | idle => simp [eof_of_idle h, h]
  | opened => simp [eof_of_opened h]

@[simp] theorem frameSequence_mode (fc : Byte) (payload : List Byte) (s : State) :
    (frameSequence fc payload s).mode = .idle := eof_mode _

/-- Without a slave id a frame only records SID_UNSET (R56). -/
theorem frameSequence_of_unset {s : State} (hm : s.mode = .idle) (hv : s.sidValid = false)
    (fc : Byte) (payload : List Byte) : frameSequence fc payload s = record .sidUnset s := by
  have hidle : (record .sidUnset s).mode = .idle := by rw [record_mode, hm]
  rw [frameSequence, sof_of_unset hm hv, putAll_of_idle _ hidle (record_err _ _), eof_of_idle hidle,
    record_record]

theorem crcSequence_of_idle {s : State} (hm : s.mode = .idle) (bytes : List Byte) :
    crcSequence bytes s = { s with crc := computeCrc bytes } := by
  rw [crcSequence, crcinit_of_idle hm, feedAll_of_idle]
  · rfl
  · exact hm

theorem crcSequence_of_opened {s : State} (hm : s.mode = .opened) (bytes : List Byte) :
    crcSequence bytes s = record .badMode s := by
  rw [crcSequence, crcinit_of_opened hm, feedAll_of_opened]
  · rw [record_mode, hm]
  · exact record_err _ _

@[simp] theorem crcSequence_mode (bytes : List Byte) (s : State) :
    (crcSequence bytes s).mode = s.mode := by
  cases hm : s.mode with
  | idle => rw [crcSequence_of_idle hm, hm]
  | opened => rw [crcSequence_of_opened hm, record_mode, hm]

/-! ## What a pseudo-instruction is, whatever the state -/

theorem execWriteMultipleFrame_uniform (a : Word16) (vs : List Word16) :
    (∃ r, ∀ s, execWriteMultipleFrame a vs s = .refused r) ∨
      ∀ s, execWriteMultipleFrame a vs s =
        .next (frameSequence Config.fcWrite (writePayload a vs) s) := by
  unfold execWriteMultipleFrame
  split
  · exact .inl ⟨_, fun _ => rfl⟩
  · split
    · exact .inl ⟨_, fun _ => rfl⟩
    · exact .inr fun _ => rfl

/-- A pseudo-instruction is refused by its operands alone, or it is one of the two command
sequences. -/
theorem execPseudo_uniform (p : Pseudo) :
    (∃ r, ∀ s, execPseudo p s = .refused r) ∨
    (∃ bytes, ∀ s, execPseudo p s = .next (crcSequence bytes s)) ∨
    (∃ fc payload, ∀ s, execPseudo p s = .next (frameSequence fc payload s)) := by
  have ofWrite (a : Word16) (vs : List Word16)
      (h : ∀ s, execPseudo p s = execWriteMultipleFrame a vs s) :
      (∃ r, ∀ s, execPseudo p s = .refused r) ∨
      ∃ fc payload, ∀ s, execPseudo p s = .next (frameSequence fc payload s) :=
    (execWriteMultipleFrame_uniform a vs).imp (fun ⟨r, hr⟩ => ⟨r, fun s => (h s).trans (hr s)⟩)
      (fun hs => ⟨_, _, fun s => (h s).trans (hs s)⟩)
  cases p with
  | crc16 bytes => exact .inr (.inl ⟨bytes, fun _ => rfl⟩)
  | frame fc payload => exact .inr (.inr ⟨fc, payload, fun _ => rfl⟩)
  | readFrame a n => exact .inr (.inr ⟨_, _, fun _ => rfl⟩)
  | writeFrame a vs => exact (ofWrite _ _ fun _ => rfl).imp_right .inr
  | activate =>
    exact (ofWrite Config.actionRequestReg Config.activatePayload fun _ => rfl).imp_right .inr
  | deactivate =>
    exact (ofWrite Config.actionRequestReg Config.deactivatePayload fun _ => rfl).imp_right .inr

theorem execPseudo_cases {p : Pseudo} {s t : State} (h : execPseudo p s = .next t) :
    (∃ bytes, t = crcSequence bytes s) ∨ ∃ fc payload, t = frameSequence fc payload s := by
  rcases execPseudo_uniform p with ⟨r, hp⟩ | ⟨bytes, hp⟩ | ⟨fc, payload, hp⟩
  · cases (hp s).symm.trans h
  · cases (hp s).symm.trans h
    exact .inl ⟨bytes, rfl⟩
  · cases (hp s).symm.trans h
    exact .inr ⟨fc, payload, rfl⟩

/-! ## What a step is -/

theorem takeByte_of_waiting {s : State} (hw : s.taken < s.out.length) :
    takeByte s = { s with taken := s.taken + 1 } := by simp [takeByte, State.txWaiting, hw]

theorem takeByte_of_not_waiting {s : State} (hw : ¬ s.taken < s.out.length) : takeByte s = s := by
  simp [takeByte, State.txWaiting, hw]

/-- Every word of the command port is a command (30_encoding.md R28). -/
@[simp] theorem isCommand_decodeWord (w : CmdWord) : isCommand (decodeWord w) = true := by
  unfold decodeWord
  dsimp only
  split <;> rfl

/-- A step idles, or it takes the next input off the list and does what that input is. -/
theorem step_cases {s t : State} (h : step s = .next t) :
    (s.inbox = [] ∧ t = s) ∨
    (∃ w rest, s.inbox = .cmd w :: rest ∧ exec (decodeWord w) { s with inbox := rest } = .next t) ∨
    (∃ p rest, s.inbox = .pseudo p :: rest ∧ execPseudo p { s with inbox := rest } = .next t) ∨
    (∃ rest, s.inbox = .take :: rest ∧ t = takeByte { s with inbox := rest }) ∨
    (∃ rest, s.inbox = .reset :: rest ∧ t = resetBlock { s with inbox := rest }) := by
  cases hin : s.inbox with
  | nil =>
    cases (step_of_no_input hin).symm.trans h
    exact .inl ⟨rfl, rfl⟩
  | cons e rest =>
    rw [step_of_input hin] at h
    cases e with
    | cmd w => exact .inr (.inl ⟨w, rest, rfl, h⟩)
    | pseudo p => exact .inr (.inr (.inl ⟨p, rest, rfl, h⟩))
    | take =>
      cases h
      exact .inr (.inr (.inr (.inl ⟨rest, rfl, rfl⟩)))
    | reset =>
      cases h
      exact .inr (.inr (.inr (.inr ⟨rest, rfl, rfl⟩)))

/-! ## What every command keeps, every instruction and pseudo-instruction keeps -/

/-- Every command keeps `P`. -/
def KeptByCommands (P : State → Prop) : Prop :=
  ∀ (i : Instr) (s t : State), isCommand i = true → exec i s = .next t → P s → P t

section
variable {P : State → Prop}

theorem putAll_keeps (hP : KeptByCommands P) (ps : List Byte) {s : State} (hs : P s) :
    P (putAll ps s) := by
  induction ps generalizing s with
  | nil => exact hs
  | cons p ps ih => exact ih (hP (.put p) s _ rfl rfl hs)

theorem feedAll_keeps (hP : KeptByCommands P) (bs : List Byte) {s : State} (hs : P s) :
    P (feedAll bs s) := by
  induction bs generalizing s with
  | nil => exact hs
  | cons b bs ih => exact ih (hP (.crcfeed b) s _ rfl rfl hs)

theorem frameSequence_keeps (hP : KeptByCommands P) (fc : Byte) (payload : List Byte) {s : State}
    (hs : P s) : P (frameSequence fc payload s) :=
  have hsof : P (sof fc s) := hP (.sof fc) s _ rfl rfl hs
  hP (.eof 0#8) _ _ rfl rfl (putAll_keeps hP payload hsof)

theorem crcSequence_keeps (hP : KeptByCommands P) (bytes : List Byte) {s : State} (hs : P s) :
    P (crcSequence bytes s) := feedAll_keeps hP bytes (hP (.crcinit 0#8) s _ rfl rfl hs)

theorem execPseudo_keeps (hP : KeptByCommands P) {p : Pseudo} {s t : State}
    (h : execPseudo p s = .next t) (hs : P s) : P t := by
  rcases execPseudo_cases h with ⟨bytes, rfl⟩ | ⟨fc, payload, rfl⟩
  · exact crcSequence_keeps hP bytes hs
  · exact frameSequence_keeps hP fc payload hs

theorem exec_keeps (hP : KeptByCommands P) {i : Instr} {s t : State} (h : exec i s = .next t)
    (hs : P s) : P t := by
  cases i with
  | readHoldingFrame a n => exact execPseudo_keeps (p := .readFrame a n) hP h hs
  | writeMultipleFrame a vs => exact execPseudo_keeps (p := .writeFrame a vs) hP h hs
  | _ => exact hP _ s t rfl h hs

/-- A step keeps what taking an input off the list, the commands, a transfer and a reset keep. -/
theorem step_keeps (hinbox : ∀ s es, P s → P { s with inbox := es }) (hP : KeptByCommands P)
    (htake : ∀ s, P s → P (takeByte s)) (hreset : ∀ s, P s → P (resetBlock s)) {s t : State}
    (h : step s = .next t) (hs : P s) : P t := by
  rcases step_cases h with ⟨-, rfl⟩ | ⟨w, rest, -, hw⟩ | ⟨p, rest, -, hp⟩ | ⟨rest, -, rfl⟩ |
    ⟨rest, -, rfl⟩
  · exact hs
  · exact exec_keeps hP hw (hinbox s rest hs)
  · exact execPseudo_keeps hP hp (hinbox s rest hs)
  · exact htake _ (hinbox s rest hs)
  · exact hreset _ (hinbox s rest hs)

end

end Sys2Proof.Machine
end

section
/-! The invariant (10_state.md R7, R12, 41_serializer.md R49, 60_exceptions.md R65) at power-on and
in every step. -/

namespace Sys2Proof.Machine

/-- Where no frame is open the invariant speaks of the error and of the transfer only. -/
theorem inv_of_idle {s : State} (hm : s.mode = .idle) (herr : s.err = false ↔ s.ecause = .none)
    (htaken : s.taken ≤ s.out.length) : Inv s where
  errIffCause := herr
  openNeedsSid h := by simp [hm] at h
  openFrame h := by simp [hm] at h
  takenBound := htaken

theorem inv_record {s : State} (hs : Inv s) {k : Cause} (hk : k ≠ .none) : Inv (record k s) where
  errIffCause := by
    cases he : s.err with
    | false => simp [he, hk]
    | true => simpa [he] using hs.errIffCause
  openNeedsSid := by simpa using hs.openNeedsSid
  openFrame := by simpa [OpenFrameCrc] using hs.openFrame
  takenBound := by simpa using hs.takenBound

/-- SOF starts a frame whose first two bytes the CRC is of (R44, R49). -/
theorem inv_openFrame {s : State} (hs : Inv s) (hv : s.sidValid = true) (d : Byte) :
    Inv (openFrame d s) where
  errIffCause := hs.errIffCause
  openNeedsSid _ := hv
  openFrame _ := ⟨s.out, d, [], by simp, (computeCrc_pair s.sid d).symm⟩
  takenBound := hs.takenBound.trans (by simp)

/-- PUT appends to the open frame the byte it folds into the CRC (R45, R49). -/
theorem inv_put {s : State} (hs : Inv s) (hm : s.mode = .opened) (d : Byte) :
    Inv (foldCrc d (emit d s)) where
  errIffCause := hs.errIffCause
  openNeedsSid := hs.openNeedsSid
  openFrame _ := by
    obtain ⟨earlier, fc, payload, hout, hcrc⟩ := hs.openFrame hm
    refine ⟨earlier, fc, payload ++ [d], by simp [hout], ?_⟩
    have := computeCrc_append (s.sid :: fc :: payload) [d]
    simpa [hcrc] using this.symm
  takenBound := hs.takenBound.trans (by simp)

theorem inv_commandEffect {i : Instr} {s : State} (hs : Inv s) (hn : raises i s = none) :
    Inv (commandEffect i s) := by
  have htaken := hs.takenBound
  cases i with
  | nop x => exact hs
  | setsid d => exact inv_of_idle (checkIdle_eq_none_iff.1 hn) hs.errIffCause htaken
  | crcinit x => exact inv_of_idle (checkIdle_eq_none_iff.1 hn) hs.errIffCause htaken
  | crcfeed d => exact inv_of_idle (checkIdle_eq_none_iff.1 hn) hs.errIffCause htaken
  | sof d => exact inv_openFrame hs (checkSof_eq_none_iff.1 hn).2 d
  | put d => exact inv_put hs (checkOpen_eq_none_iff.1 hn) d
  | eof x =>
    exact inv_of_idle rfl hs.errIffCause (htaken.trans (by simp))
  | reserved x => exact hs
  | readHoldingFrame a n => exact hs
  | writeMultipleFrame a vs => exact hs

theorem inv_keptByCommands : KeptByCommands Inv := by
  intro i s t hi h hs
  rcases exec_cases hi h with ⟨k, hk, rfl⟩ | ⟨hn, rfl⟩
  · exact inv_record hs fun hnone => raises_ne_noCause i s (hnone ▸ hk)
  · exact inv_commandEffect hs hn

theorem inv_takeByte {s : State} (hs : Inv s) : Inv (takeByte s) := by
  by_cases hw : s.taken < s.out.length
  · rw [takeByte_of_waiting hw]
    exact ⟨hs.errIffCause, hs.openNeedsSid, hs.openFrame, hw⟩
  · rwa [takeByte_of_not_waiting hw]

theorem inv_resetBlock {s : State} (hs : Inv s) : Inv (resetBlock s) :=
  inv_of_idle rfl (by simp) hs.takenBound

/-- The inputs to come are no part of the invariant. -/
theorem inv_withInbox {s : State} (hs : Inv s) (es : List Input) : Inv { s with inbox := es } where
  errIffCause := hs.errIffCause
  openNeedsSid := hs.openNeedsSid
  openFrame := hs.openFrame
  takenBound := hs.takenBound

/-- Settles O38: no frame is open and nothing is emitted at power-on. -/
theorem invariantAtReset : Obligations.InvariantAtReset :=
  inv_of_idle rfl (by simp [State.reset]) (Nat.le_refl 0)

/-- Settles O39: each part of a step keeps the invariant. -/
theorem stepKeepsInvariant : Obligations.StepKeepsInvariant := by
  intro s t hs h
  exact step_keeps (fun _ es hs => inv_withInbox hs es) inv_keptByCommands (fun _ => inv_takeByte)
    (fun _ => inv_resetBlock) h hs

end Sys2Proof.Machine
end

section
/-! Who writes `mode` (10_state.md R10), and that `out` only grows (R14). -/

namespace Sys2Proof.Machine

theorem command_mode_change {i : Instr} {s t : State} (hi : isCommand i = true)
    (h : exec i s = .next t) (hne : t.mode ≠ s.mode) :
    (t.mode = .opened ∧ ∃ d, i = .sof d) ∨ (t.mode = .idle ∧ ∃ x, i = .eof x) := by
  rcases exec_cases hi h with ⟨k, -, rfl⟩ | ⟨-, rfl⟩
  · exact absurd (record_mode k s) hne
  · cases i with
    | sof d => exact .inl ⟨rfl, d, rfl⟩
    | eof x => exact .inr ⟨rfl, x, rfl⟩
    | _ => exact absurd rfl hne

theorem pseudo_mode_change {p : Pseudo} {s t : State} (h : execPseudo p s = .next t)
    (hne : t.mode ≠ s.mode) : t.mode = .idle := by
  rcases execPseudo_cases h with ⟨bytes, rfl⟩ | ⟨fc, payload, rfl⟩
  · exact absurd (crcSequence_mode bytes s) hne
  · exact frameSequence_mode fc payload s

/-- Settles O31: an idle step and a transfer leave `mode`; each other input is its own case. -/
theorem modeIsWrittenOnlyBySofEofAndReset : Obligations.ModeIsWrittenOnlyBySofEofAndReset := by
  refine ⟨fun _ _ _ => command_mode_change, fun s t h hne => ?_⟩
  rcases step_cases h with ⟨-, rfl⟩ | ⟨w, rest, hin, hw⟩ | ⟨p, rest, hin, hp⟩ | ⟨rest, -, rfl⟩ |
    ⟨rest, hin, rfl⟩
  · exact absurd rfl hne
  · exact .inl ⟨w, rest, hin, command_mode_change (isCommand_decodeWord w) hw hne⟩
  · exact .inr (.inl ⟨p, rest, hin, pseudo_mode_change hp hne⟩)
  · exact absurd (takeByte_mode _) hne
  · exact .inr (.inr ⟨rest, hin, rfl⟩)

/-- A command appends to `out`. -/
theorem outExtends_keptByCommands (old : List Byte) : KeptByCommands (fun s => old <+: s.out) := by
  intro i s t hi h hs
  rw [exec_out hi h]
  exact hs.trans (List.prefix_append _ _)

theorem step_out_prefix {s t : State} (h : step s = .next t) : s.out <+: t.out :=
  step_keeps (P := fun u => s.out <+: u.out) (fun _ _ hu => hu) (outExtends_keptByCommands s.out)
    (fun u hu => by rwa [takeByte_out]) (fun _ hu => hu) h (List.prefix_refl _)

theorem exec_out_prefix {i : Instr} {s t : State} (h : exec i s = .next t) : s.out <+: t.out :=
  exec_keeps (outExtends_keptByCommands s.out) h (List.prefix_refl _)

/-- Settles O34. -/
theorem outOnlyGrows : Obligations.OutOnlyGrows := by
  refine ⟨rfl, fun _ _ => step_out_prefix, resetBlock_out, fun i s t h => ?_⟩
  obtain ⟨bytes, hbytes⟩ := exec_out_prefix h
  exact ⟨bytes, hbytes.symm⟩

end Sys2Proof.Machine
end

section
/-! A slave id that no SETSID gave is never read (10_state.md R11): a simulation between two states
that differ only there. -/

namespace Sys2Proof.Machine

/-- Equal, or equal but for a slave id that is not given. -/
def SidUnseen (s t : State) : Prop := s = t ∨ SameButUnsetSid s t

theorem SameButUnsetSid.eq_with_sid {s t : State} (h : SameButUnsetSid s t) :
    s.sidValid = false ∧ s.mode = .idle ∧ ∃ v, t = { s with sid := v } :=
  let ⟨hv, hm, ht⟩ := h
  ⟨hv, hm, t.sid, ht⟩

section
variable {s : State} (hv : s.sidValid = false) (hm : s.mode = .idle) (v : Byte)
include hv hm

theorem sidUnseen_record (k : Cause) : SidUnseen (record k s) (record k { s with sid := v }) :=
  .inr ⟨by simp [hv], by simp [hm], by simp [record_eq]⟩

/-- In IDLE without a slave id SOF, PUT and EOF only err, SETSID overwrites `sid`, and no other
command looks at it. -/
theorem sidUnseen_commandEffect {i : Instr} (hn : raises i s = none) :
    SidUnseen (commandEffect i s) (commandEffect i { s with sid := v }) := by
  cases i with
  | setsid d => exact .inl rfl
  | sof d => simp [raises, checkSof_of_unset hm hv] at hn
  | put d => simp [raises, checkOpen_of_idle hm] at hn
  | eof x => simp [raises, checkOpen_of_idle hm] at hn
  | _ => exact .inr ⟨hv, hm, rfl⟩

theorem sidUnseen_command {i : Instr} (hi : isCommand i = true) :
    OutcomesRelated SidUnseen (exec i s) (exec i { s with sid := v }) := by
  have hraise : raises i { s with sid := v } = raises i s := raises_congr rfl rfl i
  rw [exec_of_command hi, exec_of_command hi, hraise]
  cases hr : raises i s with
  | some k => exact sidUnseen_record hv hm v k
  | none => exact sidUnseen_commandEffect hv hm v hr

theorem sidUnseen_pseudo (p : Pseudo) :
    OutcomesRelated SidUnseen (execPseudo p s) (execPseudo p { s with sid := v }) := by
  rcases execPseudo_uniform p with ⟨r, hp⟩ | ⟨bytes, hp⟩ | ⟨fc, payload, hp⟩
  · rw [hp, hp]
    rfl
  · rw [hp, hp, crcSequence_of_idle hm, crcSequence_of_idle (s := { s with sid := v }) hm]
    exact .inr ⟨hv, hm, rfl⟩
  · rw [hp, hp, frameSequence_of_unset hm hv,
      frameSequence_of_unset (s := { s with sid := v }) hm hv]
    exact sidUnseen_record hv hm v .sidUnset

theorem sidUnseen_takeByte : SidUnseen (takeByte s) (takeByte { s with sid := v }) := by
  by_cases hw : s.taken < s.out.length
  · rw [takeByte_of_waiting hw, takeByte_of_waiting (s := { s with sid := v }) hw]
    exact .inr ⟨hv, hm, rfl⟩
  · rw [takeByte_of_not_waiting hw, takeByte_of_not_waiting (s := { s with sid := v }) hw]
    exact .inr ⟨hv, hm, rfl⟩

theorem sidUnseen_perform (e : Input) :
    OutcomesRelated SidUnseen (perform e s) (perform e { s with sid := v }) := by
  cases e with
  | cmd w => exact sidUnseen_command hv hm v (isCommand_decodeWord w)
  | pseudo p => exact sidUnseen_pseudo hv hm v p
  | take => exact sidUnseen_takeByte hv hm v
  | reset => exact .inl rfl

end

/-- Settles O32: STATUS does not hold `sid`, and each input keeps the two states alike. -/
theorem unsetSlaveIdIsNeverRead : Obligations.UnsetSlaveIdIsNeverRead := by
  intro s t hst
  obtain ⟨hv, hm, v, rfl⟩ := hst.eq_with_sid
  refine ⟨rfl, ?_⟩
  by_cases hin : s.inbox = []
  · rw [step_of_no_input hin, step_of_no_input (s := { s with sid := v }) hin]
    exact .inr hst
  · obtain ⟨e, rest, hin⟩ := List.exists_cons_of_ne_nil hin
    rw [step_of_input hin, step_of_input (s := { s with sid := v }) hin]
    exact sidUnseen_perform (s := { s with inbox := rest }) hv hm v e

end Sys2Proof.Machine
end

section
/-! The STATUS word (10_state.md R13). -/

namespace Sys2Proof.Machine

/-- The bits of STATUS, field by field (R13). -/
theorem status_getLsbD (s : State) (i : Nat) :
    s.status.getLsbD i =
      if i < 19 then
        if i < 18 then
          if i < 17 then
            if i < 16 then s.crc.getLsbD i else s.mode.code.getLsbD (i - 16)
          else (BitVec.ofBool s.sidValid).getLsbD (i - 17)
        else (BitVec.ofBool s.err).getLsbD (i - 18)
      else s.ecause.code.getLsbD (i - 19) := by
  simp only [State.status, BitVec.getLsbD_append]

@[simp] theorem status_crc (s : State) : s.status.extractLsb' 0 16 = s.crc := by
  apply BitVec.eq_of_getLsbD_eq
  intro i hi
  have h17 : i < 17 := by omega
  have h18 : i < 18 := by omega
  have h19 : i < 19 := by omega
  simp [status_getLsbD, hi, h17, h18, h19]

theorem status_mode (s : State) : s.status.getLsbD 16 = true ↔ s.mode = .opened := by
  rw [status_getLsbD]
  cases s.mode <;> simp [Mode.code]

theorem status_sidValid (s : State) : s.status.getLsbD 17 = s.sidValid := by
  rw [status_getLsbD]
  cases s.sidValid <;> rfl

theorem status_err (s : State) : s.status.getLsbD 18 = s.err := by
  rw [status_getLsbD]
  cases s.err <;> rfl

@[simp] theorem status_ecause (s : State) : s.status.extractLsb' 19 2 = s.ecause.code := by
  apply BitVec.eq_of_getLsbD_eq
  intro i hi
  simp [status_getLsbD, hi]

theorem status_reset : State.reset.status = 0x00FFFF#21 := by decide

/-- A reset leaves every element STATUS shows as it is at power-on (70_reset_and_hazards.md R73). -/
@[simp] theorem status_resetBlock (s : State) : (resetBlock s).status = 0x00FFFF#21 := status_reset

/-- Settles O33. -/
theorem statusLayout : Obligations.StatusLayout :=
  ⟨fun s => ⟨status_crc s, status_mode s, status_sidValid s, status_err s, status_ecause s⟩,
    ⟨status_reset, status_resetBlock⟩, fun _ _ _ _ => portsOut_status_of_quiet⟩

end Sys2Proof.Machine
end

section
/-! The transfer of bytes (10_state.md R7), in a step and in a cycle of the ports. -/

namespace Sys2Proof.Machine

/-! ## The bytes transferred -/

/-- What is appended to `out` is not yet transferred. -/
theorem sent_of_out_prefix {s t : State} (hs : s.taken ≤ s.out.length) (htaken : t.taken = s.taken)
    (hout : s.out <+: t.out) : t.sent = s.sent := by
  obtain ⟨bytes, hbytes⟩ := hout
  rw [State.sent, State.sent, htaken, ← hbytes, List.take_append_of_le_length hs]

/-- The byte on `tx_data` is the one a transfer adds to those transferred. -/
theorem sent_of_transfer {s : State} (hw : s.taken < s.out.length) :
    ∃ b, s.txData = some b ∧ ({ s with taken := s.taken + 1 } : State).sent = s.sent ++ [b] :=
  ⟨s.out[s.taken], List.getElem?_eq_getElem hw, List.take_succ_eq_append_getElem hw⟩

/-- No command and no pseudo-instruction transfers a byte. -/
theorem sent_keptByCommands (old : State) :
    KeptByCommands (fun s => old.out <+: s.out ∧ s.taken = old.taken) :=
  fun i s t hi h ⟨hout, htaken⟩ =>
    ⟨outExtends_keptByCommands old.out i s t hi h hout, (exec_taken hi h).trans htaken⟩

/-! ## In a step -/

theorem step_sent {s t : State} (hs : s.taken ≤ s.out.length) (h : step s = .next t) :
    t.sent = s.sent ∨
      ∃ b rest, s.inbox = .take :: rest ∧ s.txData = some b ∧ t.sent = s.sent ++ [b] := by
  rcases step_cases h with ⟨-, rfl⟩ | ⟨w, rest, -, hw⟩ | ⟨p, rest, -, hp⟩ | ⟨rest, hin, rfl⟩ |
    ⟨rest, -, rfl⟩
  · exact .inl rfl
  · obtain ⟨hout, htaken⟩ := exec_keeps (sent_keptByCommands s) hw ⟨List.prefix_refl _, rfl⟩
    exact .inl (sent_of_out_prefix hs htaken hout)
  · obtain ⟨hout, htaken⟩ := execPseudo_keeps (sent_keptByCommands s) hp ⟨List.prefix_refl _, rfl⟩
    exact .inl (sent_of_out_prefix hs htaken hout)
  · by_cases hw : s.taken < s.out.length
    · obtain ⟨b, hdata, hsent⟩ := sent_of_transfer hw
      rw [takeByte_of_waiting (s := { s with inbox := rest }) hw]
      exact .inr ⟨b, rest, hin, hdata, hsent⟩
    · rw [takeByte_of_not_waiting (s := { s with inbox := rest }) hw]
      exact .inl rfl
  · exact .inl rfl

theorem step_of_take {s : State} {rest : List Input} (hin : s.inbox = .take :: rest)
    (hw : s.taken < s.out.length) :
    step s = .next { s with taken := s.taken + 1, inbox := rest } := by
  rw [step_of_input hin]
  exact congrArg _ (takeByte_of_waiting (s := { s with inbox := rest }) hw)

/-! ## In a cycle -/

theorem waiting_of_transfers {t : Timing} {p : PortsIn} {s : State} (h : transfers t p s = true) :
    s.taken < s.out.length := waiting_of_txValid (transfers_iff.1 h).1

/-- No byte is transferred that is not shown. -/
@[simp] theorem transfers_of_not_shown (t : Timing) (p : PortsIn) (s : State) :
    transfers { t with shown := false } p s = false := rfl

/-- A cycle in which a byte is transferred: the transfer, then a cycle that shows no byte. -/
theorem cycle_of_transfers {t : Timing} {p : PortsIn} {s : State} (h : transfers t p s = true) :
    cycle t p s = cycle { t with shown := false } p { s with taken := s.taken + 1 } := by
  simp only [cycle, h, if_true]
  rfl

theorem cycleInputs_of_transfers {t : Timing} {p : PortsIn} {s : State}
    (h : transfers t p s = true) :
    cycleInputs t p s =
      .take :: cycleInputs { t with shown := false } p { s with taken := s.taken + 1 } := by
  simp only [cycleInputs, h, if_true]
  rfl

/-- A cycle without a transfer is a reset, an accepted command or nothing. -/
theorem cycle_of_not_transfers {t : Timing} {p : PortsIn} {s : State}
    (h : transfers t p s = false) :
    cycle t p s =
      if p.rst then .next (resetBlock s)
      else if accepts t p then exec (decodeWord p.cmd) s else .next s := by
  simp only [cycle, h]
  rfl

theorem cycleInputs_of_not_transfers {t : Timing} {p : PortsIn} {s : State}
    (h : transfers t p s = false) :
    cycleInputs t p s =
      if p.rst then [.reset] else if accepts t p then [.cmd p.cmd] else [] := by
  simp only [cycleInputs, h]
  rfl

theorem stepMany_one (s : State) : stepMany 1 s = step s := by
  rw [stepMany]
  cases step s <;> rfl

/-- Without a transfer a cycle is the step of its one input, or no step. -/
theorem stepMany_of_not_transfers {t : Timing} {p : PortsIn} {s : State}
    (h : transfers t p s = false) :
    stepMany (cycleInputs t p s).length { s with inbox := cycleInputs t p s ++ s.inbox } =
      cycle t p s := by
  rw [cycleInputs_of_not_transfers h, cycle_of_not_transfers h]
  cases p.rst with
  | true => exact stepMany_one _
  | false =>
    cases accepts t p with
    | true => exact stepMany_one _
    | false => exact stepMany_zero s

/-- Settles O43: a transfer is the first step of its cycle. -/
theorem cycleIsTheStepsOfItsInputs : Obligations.CycleIsTheStepsOfItsInputs := by
  intro t p s
  cases h : transfers t p s with
  | false => exact stepMany_of_not_transfers h
  | true =>
    have hstep (es : List Input) :
        step { s with inbox := .take :: es } =
          .next { s with taken := s.taken + 1, inbox := es } :=
      step_of_take rfl (waiting_of_transfers h)
    rw [cycle_of_transfers h, cycleInputs_of_transfers h]
    exact (stepMany_succ_of_next (hstep _)).trans
      (stepMany_of_not_transfers (transfers_of_not_shown t p { s with taken := s.taken + 1 }))

theorem cycle_sent_of_not_transfers {t : Timing} {p : PortsIn} {s : State}
    (hs : s.taken ≤ s.out.length) (h : transfers t p s = false) :
    ∃ u, cycle t p s = .next u ∧ u.sent = s.sent := by
  rw [cycle_of_not_transfers h]
  cases p.rst with
  | true => exact ⟨resetBlock s, rfl, rfl⟩
  | false =>
    cases accepts t p with
    | true =>
      have hexec := exec_of_command (isCommand_decodeWord p.cmd) s
      have hout := exec_out_prefix hexec
      have htaken := exec_taken (isCommand_decodeWord p.cmd) hexec
      exact ⟨_, hexec, sent_of_out_prefix hs htaken hout⟩
    | false => exact ⟨s, rfl, rfl⟩

theorem cycle_sent_of_transfers {t : Timing} {p : PortsIn} {s : State} (next : State)
    (h : transfers t p s = true) :
    ∃ b u, (portsOut t p s next).txData = some b ∧ cycle t p s = .next u ∧
      u.sent = s.sent ++ [b] := by
  have hw := waiting_of_transfers h
  obtain ⟨b, hdata, hsent⟩ := sent_of_transfer hw
  obtain ⟨u, hu, husent⟩ := cycle_sent_of_not_transfers (t := { t with shown := false }) (p := p)
    (s := { s with taken := s.taken + 1 }) hw (transfers_of_not_shown t p _)
  exact ⟨b, u, (portsOut_txData_of_valid (transfers_iff.1 h).1).trans hdata,
    (cycle_of_transfers h).trans hu, husent.trans hsent⟩

/-- Settles O44, at the step and then at the ports. -/
theorem bytesLeaveInOrder : Obligations.BytesLeaveInOrder := by
  refine ⟨fun s t hs => step_sent hs.takenBound, fun s rest hin hw => ?_,
    fun s => List.take_append_drop s.taken s.out,
    fun t p s next => ⟨fun hv => ?_, portsOut_txData_of_not_valid, transfers_iff⟩,
    fun _ _ _ next => cycle_sent_of_transfers next, fun _ _ _ => cycle_sent_of_not_transfers⟩
  · obtain ⟨b, hdata, hsent⟩ := sent_of_transfer hw
    exact ⟨b, _, hdata, step_of_take hin hw, hsent, rfl⟩
  · obtain ⟨b, hdata, -⟩ := sent_of_transfer (waiting_of_txValid hv)
    exact ⟨b, (portsOut_txData_of_valid hv).trans hdata, hdata⟩

end Sys2Proof.Machine
end

section
/-! Command words one after another (20_memory.md R21, R22): each completes, and no command looks at
the inputs to come, so the steps of the words are the left fold of the commands. -/

namespace Sys2Proof.Machine

/-- A command completes and writes neither the inputs to come nor the count of bytes transferred. -/
theorem exec_completes {i : Instr} (hi : isCommand i = true) (s : State) :
    ∃ t, exec i s = .next t ∧ t.inbox = s.inbox ∧ t.taken = s.taken :=
  have h := exec_of_command hi s
  ⟨_, h, exec_inbox hi h, exec_taken hi h⟩

/-- Settles O24. -/
theorem everyCommandCompletes : Obligations.EveryCommandCompletes := fun _ s hi =>
  exec_completes hi s

/-- With other inputs to come a command does the same, and leaves those. -/
theorem exec_withInbox {i : Instr} {s t : State} (hi : isCommand i = true)
    (h : exec i s = .next t) (es : List Input) :
    exec i { s with inbox := es } = .next { t with inbox := es } := by
  have hes := exec_of_command hi { s with inbox := es }
  rw [hes]
  rcases exec_pair_cases hi h hes (raises_congr rfl rfl i) with ⟨k, -, rfl, hu⟩ | ⟨-, rfl, hu⟩
  · rw [hu, record_eq, record_eq]
  · rw [hu]
    cases i <;> rfl

/-- A run of instructions goes on from a next state. -/
theorem execAll_cons_of_next {i : Instr} {s t : State} (h : exec i s = .next t) (is : List Instr) :
    execAll (i :: is) s = execAll is t := by rw [execAll, h]

theorem execAll_completes {is : List Instr} (his : ∀ i ∈ is, isCommand i = true) (s : State) :
    ∃ t, execAll is s = .next t ∧ t.inbox = s.inbox := by
  induction is generalizing s with
  | nil => exact ⟨s, rfl, rfl⟩
  | cons i is ih =>
    obtain ⟨hi, his⟩ := List.forall_mem_cons.1 his
    obtain ⟨u, hu, huin, -⟩ := exec_completes hi s
    obtain ⟨t, ht, htin⟩ := ih his u
    exact ⟨t, (execAll_cons_of_next hu is).trans ht, htin.trans huin⟩

/-- The steps of command words are the decoded commands one after another (R22, log 2). -/
theorem stepMany_of_cmds {ws : List CmdWord} {rest : List Input} {s : State}
    (h : s.inbox = ws.map .cmd ++ rest) :
    stepMany ws.length s = execAll (ws.map decodeWord) { s with inbox := rest } := by
  induction ws generalizing s with
  | nil =>
    subst h
    rfl
  | cons w ws ih =>
    have hw := isCommand_decodeWord w
    obtain ⟨t, ht, htin, -⟩ := exec_completes hw { s with inbox := ws.map .cmd ++ rest }
    calc stepMany (ws.length + 1) s
      _ = stepMany ws.length t := stepMany_succ_of_next ((step_of_cmd h).trans ht)
      _ = execAll (ws.map decodeWord) { t with inbox := rest } := ih htin
      _ = execAll (decodeWord w :: ws.map decodeWord) { s with inbox := rest } :=
        (execAll_cons_of_next (exec_withInbox hw ht rest) _).symm

/-- Settles O42: the steps are the left fold, and the left fold of commands completes. -/
theorem commandsAreTheLeftFoldOfTheStep : Obligations.CommandsAreTheLeftFoldOfTheStep := by
  intro ws rest s hin
  have hfold := stepMany_of_cmds hin
  have hcommands : ∀ i ∈ ws.map decodeWord, isCommand i = true :=
    List.forall_mem_map.2 fun w _ => isCommand_decodeWord w
  obtain ⟨t, ht, htin⟩ := execAll_completes hcommands { s with inbox := rest }
  exact ⟨hfold, t, hfold.trans ht, htin⟩

end Sys2Proof.Machine
end

section
/-! Command words (30_encoding.md R25 to R29): the fields of a word as numbers, the rows of R26, and
the eight command words as the two sides of one equivalence of decoder and encoder. -/

namespace Sys2Proof.Machine

/-! ## The fields of a word (R25) -/

theorem cmdWord_toNat (op : BitVec 3) (d : Byte) :
    (cmdWord op d).toNat = op.toNat * 256 + d.toNat := by
  rw [cmdWord, BitVec.toNat_append, ← Nat.shiftLeft_add_eq_or_of_lt d.isLt, Nat.shiftLeft_eq]

theorem exists_eq_cmdWord (w : CmdWord) : ∃ op d, w = cmdWord op d :=
  ⟨_, _, (cmdWord_fields w).symm⟩

theorem opField_toNat (w : CmdWord) : (opField w).toNat = w.toNat / 256 := by
  obtain ⟨op, d, rfl⟩ := exists_eq_cmdWord w
  have := d.isLt
  rw [opField_cmdWord, cmdWord_toNat]
  omega

theorem dataField_toNat (w : CmdWord) : (dataField w).toNat = w.toNat % 256 := by
  obtain ⟨op, d, rfl⟩ := exists_eq_cmdWord w
  have := d.isLt
  rw [dataField_cmdWord, cmdWord_toNat]
  omega

theorem opField_eq_iff {w : CmdWord} {op : BitVec 3} :
    opField w = op ↔ w.toNat / 256 = op.toNat := by rw [← BitVec.toNat_inj, opField_toNat]

theorem dataField_eq_setWidth (w : CmdWord) : dataField w = w.setWidth 8 :=
  BitVec.eq_of_toNat_eq (by rw [dataField_toNat, BitVec.toNat_setWidth])

/-- Settles O1. -/
theorem commandWordIsOpAndData : Obligations.CommandWordIsOpAndData := by
  refine ⟨fun w => ⟨opField_toNat w, dataField_toNat w, ?_, cmdWord_fields w⟩, by decide⟩
  rw [← cmdWord_toNat, cmdWord_fields]

/-! ## The rows of the opcode table (R26, R28) -/

/-- The rows of R26. -/
theorem op_cases :
    ∀ op : BitVec 3, op = 0#3 ∨ op = 1#3 ∨ op = 2#3 ∨ op = 3#3 ∨ op = 4#3 ∨ op = 5#3 ∨ op = 6#3 ∨
      op = 7#3 := by decide

@[simp] theorem encodeWord_decodeWord (w : CmdWord) : encodeWord (decodeWord w) = some w := by
  obtain ⟨op, d, rfl⟩ := exists_eq_cmdWord w
  rcases op_cases op with rfl | rfl | rfl | rfl | rfl | rfl | rfl | rfl <;> simp [encodeWord]

/-- The decoder of command words is the inverse of their encoder (R28). -/
theorem decodeWord_eq_iff {w : CmdWord} {i : Instr} : decodeWord w = i ↔ encodeWord i = some w := by
  constructor
  · rintro rfl
    exact encodeWord_decodeWord w
  · intro h
    cases i with
    | readHoldingFrame a n => cases h
    | writeMultipleFrame a vs => cases h
    | _ =>
      cases h
      simp

/-- Settles O2, the second clause from what an error depends on. -/
theorem everyWordDecodesByItsOp : Obligations.EveryWordDecodesByItsOp := by
  refine ⟨fun w => ?_, fun w s t hm hv => raises_congr hm hv _⟩
  obtain ⟨op, d, rfl⟩ := exists_eq_cmdWord w
  rcases op_cases op with rfl | rfl | rfl | rfl | rfl | rfl | rfl | rfl <;> simp

/-- The word that decodes to an instruction is the one its row and its operand make (R25). -/
theorem decodeWord_of_opField {w : CmdWord} {op : BitVec 3} (h : opField w = op) :
    decodeWord w = decodeWord (cmdWord op (w.setWidth 8)) := by
  rw [← h, ← dataField_eq_setWidth, cmdWord_fields]

/-- Settles O6: the ignored operand is dropped by the meaning, and XOR with the zero byte changes
nothing. -/
theorem dataFieldTakenUnchangedOrIgnored : Obligations.DataFieldTakenUnchangedOrIgnored := by
  refine ⟨fun x y s => ?_, fun w => ?_, fun c b => ?_⟩
  · simp only [decodeWord_nop, decodeWord_crcinit, decodeWord_eof, decodeWord_reserved]
    exact ⟨rfl, rfl, rfl, rfl⟩
  · exact ⟨fun h => (decodeWord_of_opField h).trans (decodeWord_setsid _),
      fun h => (decodeWord_of_opField h).trans (decodeWord_crcfeed _),
      fun h => (decodeWord_of_opField h).trans (decodeWord_sof _),
      fun h => (decodeWord_of_opField h).trans (decodeWord_put _)⟩
  · simp [crcStep]

/-! ## The reserved words and the words without effect (R29) -/

/-- A row of R26 is the range of the words with its op (R28). -/
theorem exists_decodeWord_eq_iff {op : BitVec 3} {make : Byte → Instr}
    (h : ∀ x, encodeWord (make x) = some (cmdWord op x)) (w : CmdWord) :
    (∃ x, decodeWord w = make x) ↔ w.toNat / 256 = op.toNat := by
  simp only [decodeWord_eq_iff, h, Option.some.injEq]
  rw [← opField_eq_iff]
  constructor
  · rintro ⟨x, rfl⟩
    exact opField_cmdWord op x
  · rintro rfl
    exact ⟨_, cmdWord_fields w⟩

theorem exists_decodeWord_nop_iff (w : CmdWord) :
    (∃ x, decodeWord w = .nop x) ↔ w.toNat < 0x100 := by
  rw [exists_decodeWord_eq_iff (op := 0#3) (fun _ => rfl), BitVec.toNat_ofNat]
  omega

theorem exists_decodeWord_reserved_iff (w : CmdWord) :
    (∃ x, decodeWord w = .reserved x) ↔ 0x700 ≤ w.toNat := by
  have := w.isLt
  rw [exists_decodeWord_eq_iff (op := 7#3) (fun _ => rfl), BitVec.toNat_ofNat]
  omega

theorem exec_reserved (x : Byte) (s : State) :
    exec (.reserved x) s =
      .next { s with err := true, ecause := if s.err then s.ecause else .reservedOp } :=
  congrArg _ (record_eq .reservedOp s)

/-- Every command but NOP errs in some state without an error: those of IDLE in OPEN, those of OPEN
in IDLE (60_exceptions.md R63). -/
theorem exists_raises {i : Instr} (hi : isCommand i = true) (hnop : ¬ ∃ x, i = .nop x) :
    ∃ s k, s.err = false ∧ raises i s = some k := by
  cases i with
  | nop x => exact absurd ⟨x, rfl⟩ hnop
  | readHoldingFrame a n => cases hi
  | writeMultipleFrame a vs => cases hi
  | put d => exact ⟨.reset, .badMode, rfl, rfl⟩
  | eof x => exact ⟨.reset, .badMode, rfl, rfl⟩
  | reserved x => exact ⟨.reset, .reservedOp, rfl, rfl⟩
  | _ => exact ⟨{ State.reset with mode := .opened }, .badMode, rfl, rfl⟩

/-- Every command but op 7 runs without an error in some state (R63). -/
theorem exists_raises_none {i : Instr} (hres : ¬ ∃ x, i = .reserved x) :
    ∃ s, s.err = false ∧ raises i s = none := by
  cases i with
  | reserved x => exact absurd ⟨x, rfl⟩ hres
  | put d => exact ⟨{ State.reset with mode := .opened }, rfl, rfl⟩
  | eof x => exact ⟨{ State.reset with mode := .opened }, rfl, rfl⟩
  | _ => exact ⟨{ State.reset with sidValid := true }, rfl, rfl⟩

/-- A command without any effect raises no error in any state, so it is a NOP (R29). -/
theorem exec_id_iff_nop {i : Instr} (hi : isCommand i = true) :
    (∀ s, exec i s = .next s) ↔ ∃ x, i = .nop x := by
  constructor
  · intro hid
    by_contra hnop
    obtain ⟨s, k, herr, hk⟩ := exists_raises hi hnop
    have hrec : record k s = s := by
      have h := (exec_of_command hi s).symm.trans (hid s)
      rw [hk] at h
      exact Host.Outcome.next.inj h
    have : s.err = true := hrec ▸ record_err k s
    simp [herr] at this
  · rintro ⟨x, rfl⟩ s
    rfl

/-- Settles O7. -/
theorem onlyOpSevenIsReserved : Obligations.OnlyOpSevenIsReserved := by
  refine ⟨fun w s hw => ?_, exec_reserved, fun w => ?_, fun w hw => ?_⟩
  · obtain ⟨x, hx⟩ := (exists_decodeWord_reserved_iff w).2 hw
    rw [hx, exec_reserved]
  · exact (exec_id_iff_nop (isCommand_decodeWord w)).trans (exists_decodeWord_nop_iff w)
  · have hres : ¬ ∃ x, decodeWord w = .reserved x := fun h =>
      Nat.not_lt.2 ((exists_decodeWord_reserved_iff w).1 h) hw
    obtain ⟨s, herr, hn⟩ := exists_raises_none hres
    have h := exec_of_command (isCommand_decodeWord w) s
    rw [hn] at h
    exact ⟨s, _, herr, h, (commandEffect_err _ s).trans herr⟩

end Sys2Proof.Machine
end

section
/-! The decoder of frames (30_encoding.md R30 to R33): one equivalence for each part, from the
values up to the whole frame, so that decoding inverts encoding in both directions. -/

namespace Sys2Proof.Machine

/-! ## 16-bit fields (R33) -/

@[simp] theorem bigEndian_ofBytes (hi lo : Byte) : bigEndian (ofBytes hi lo) = [hi, lo] := by
  simp [bigEndian]

theorem hi8_eq_shift (w : Word16) : hi8 w = (w >>> 8).setWidth 8 := by
  apply BitVec.eq_of_getLsbD_eq
  intro i hi
  simp [hi8, hi]

theorem lo8_eq_mask (w : Word16) : lo8 w = (w &&& 0x00FF#16).setWidth 8 := by
  apply BitVec.eq_of_toNat_eq
  have hmask : w.toNat % 256 &&& 255 = w.toNat % 256 % 256 := Nat.and_two_pow_sub_one_eq_mod _ 8
  simp [lo8, hmask]

/-- Settles O8. -/
theorem sixteenBitFieldsAreBigEndianButTheCrc :
    Obligations.SixteenBitFieldsAreBigEndianButTheCrc := by
  intro w
  rw [← hi8_eq_shift, ← lo8_eq_mask]
  exact ⟨rfl, rfl, ofBytes_hi8_lo8 w⟩

/-! ## Payloads (R31, R32) -/

theorem decodeValues_bigEndianAll (vs : List Word16) :
    decodeValues (bigEndianAll vs) = some vs := by
  induction vs with
  | nil => rfl
  | cons v vs ih => simp [bigEndianAll, bigEndian, decodeValues, ih]

theorem bigEndianAll_of_decodeValues {bytes : List Byte} {vs : List Word16}
    (h : decodeValues bytes = some vs) : bigEndianAll vs = bytes := by
  induction bytes using decodeValues.induct generalizing vs with
  | case1 =>
    cases h
    rfl
  | case2 b => cases h
  | case3 hi lo rest ih =>
    obtain ⟨us, hus, rfl⟩ := Option.map_eq_some_iff.1 h
    simp [bigEndianAll, ih hus]

theorem decodeReadPayload_eq_ok_iff {payload : List Byte} {i : Instr} :
    decodeReadPayload payload = .ok i ↔
      ∃ a n, i = .readHoldingFrame a n ∧ readPayload a n = payload := by
  constructor
  · intro h
    unfold decodeReadPayload at h
    split at h
    · cases h
      exact ⟨_, _, rfl, by simp [readPayload]⟩
    · cases h
  · rintro ⟨a, n, rfl, rfl⟩
    simp [readPayload, bigEndian, decodeReadPayload]

/-- The register count and the byte count of a write frame hold the number of its values (R32). -/
theorem writePayload_counts {vs : List Word16} (h : fitsWriteFrame vs = true) :
    (BitVec.ofNat 16 vs.length).toNat = vs.length ∧
      (BitVec.ofNat 8 (2 * vs.length)).toNat = 2 * vs.length := by
  obtain ⟨-, h127⟩ := (fitsWriteFrame_iff vs).1 h
  simp only [BitVec.toNat_ofNat]
  omega

theorem decodeWritePayload_writePayload {vs : List Word16} (h : fitsWriteFrame vs = true)
    (a : Word16) : decodeWritePayload (writePayload a vs) = .ok (.writeMultipleFrame a vs) := by
  obtain ⟨hcount, hbytes⟩ := writePayload_counts h
  have hne : vs ≠ [] := by
    rintro rfl
    cases h
  simp [writePayload, bigEndian, decodeWritePayload, decodeValues_bigEndianAll, -BitVec.toNat_ofNat,
    hcount, hbytes, hne]

/-- The counts read back are those the encoder writes, and a byte count of 8 bits bounds the number
of values (R32). -/
theorem writePayload_of_counts {ah al ch cl bc : Byte} {rest : List Byte} {vs : List Word16}
    (hvs : decodeValues rest = some vs) (hcount : (ofBytes ch cl).toNat = vs.length)
    (hbytes : bc.toNat = 2 * vs.length) (hne : vs ≠ []) :
    fitsWriteFrame vs = true ∧
      writePayload (ofBytes ah al) vs = ah :: al :: ch :: cl :: bc :: rest := by
  have hpos : 0 < vs.length := List.length_pos_iff.2 hne
  have h256 : bc.toNat < 256 := bc.isLt
  refine ⟨(fitsWriteFrame_iff vs).2 ⟨hpos, by omega⟩, ?_⟩
  rw [writePayload, bigEndianAll_of_decodeValues hvs, ← hbytes, ← hcount]
  simp

theorem decodeWritePayload_eq_ok_iff {payload : List Byte} {i : Instr} :
    decodeWritePayload payload = .ok i ↔
      ∃ a vs, i = .writeMultipleFrame a vs ∧ fitsWriteFrame vs = true ∧
        writePayload a vs = payload := by
  constructor
  · intro h
    unfold decodeWritePayload at h
    split at h
    · split at h
      · cases h
      · next vs hvs =>
        split_ifs at h with hcount hbytes hne
        cases h
        obtain ⟨hfits, hpayload⟩ :=
          writePayload_of_counts hvs (not_not.1 hcount) (not_not.1 hbytes) hne
        exact ⟨_, vs, rfl, hfits, hpayload⟩
    · cases h
  · rintro ⟨a, vs, rfl, hfits, rfl⟩
    exact decodeWritePayload_writePayload hfits a

/-! ## Whole frames (R30) -/

theorem except_map_eq_ok_iff {ε α β : Type} {f : α → β} {x : Except ε α} {b : β} :
    x.map f = .ok b ↔ ∃ a, x = .ok a ∧ f a = b := by
  cases x <;> simp [Except.map]

/-- The function code picks the layout (R34). -/
theorem decodeBody_eq_ok_iff {body : List Byte} {sid : Byte} {i : Instr} :
    decodeBody body = .ok (sid, i) ↔
      (∃ payload, body = sid :: Config.fcRead :: payload ∧ decodeReadPayload payload = .ok i) ∨
      ∃ payload, body = sid :: Config.fcWrite :: payload ∧ decodeWritePayload payload = .ok i := by
  have hfc : Config.fcWrite ≠ Config.fcRead := by decide
  constructor
  · intro h
    unfold decodeBody at h
    split at h
    · split_ifs at h with hr hw
      · obtain ⟨j, hj, heq⟩ := except_map_eq_ok_iff.1 h
        cases heq
        exact .inl ⟨_, by rw [hr], hj⟩
      · obtain ⟨j, hj, heq⟩ := except_map_eq_ok_iff.1 h
        cases heq
        exact .inr ⟨_, by rw [hw], hj⟩
    · cases h
  · rintro (⟨payload, rfl, hp⟩ | ⟨payload, rfl, hp⟩)
    · simp [decodeBody, hp, Except.map]
    · simp [decodeBody, hfc, hp, Except.map]

/-- What decodes is a body followed by the CRC field of it (R30). -/
theorem decodeFrame_eq_ok_iff_body {bytes : List Byte} {sid : Byte} {i : Instr} :
    decodeFrame bytes = .ok (sid, i) ↔
      ∃ body, sealFrame body = bytes ∧ decodeBody body = .ok (sid, i) := by
  constructor
  · intro h
    simp only [decodeFrame] at h
    split_ifs at h with hlen hcrc
    exact ⟨_, by rw [sealFrame, ← hcrc, List.take_append_drop], h⟩
  · rintro ⟨body, rfl, hbody⟩
    have hlen : 2 ≤ body.length := by
      rcases decodeBody_eq_ok_iff.1 hbody with ⟨payload, rfl, -⟩ | ⟨payload, rfl, -⟩ <;> simp
    have hfour : ¬ body.length + 2 < 4 := by omega
    simp [decodeFrame, sealFrame, hbody, hfour]

/-- The frame decoder accepts exactly the frames the encoder lays out for well-formed
instructions. -/
theorem decodeFrame_eq_ok_iff {bytes : List Byte} {sid : Byte} {i : Instr} :
    decodeFrame bytes = .ok (sid, i) ↔ i.wf = true ∧ encode sid i = .frame bytes := by
  rw [decodeFrame_eq_ok_iff_body]
  simp only [decodeBody_eq_ok_iff, decodeReadPayload_eq_ok_iff, decodeWritePayload_eq_ok_iff]
  constructor
  · rintro ⟨_, rfl, ⟨_, rfl, a, n, rfl, rfl⟩ | ⟨_, rfl, a, vs, rfl, hfits, rfl⟩⟩
    · exact ⟨rfl, rfl⟩
    · exact ⟨hfits, rfl⟩
  · rintro ⟨hwf, henc⟩
    cases i with
    | readHoldingFrame a n =>
      cases henc
      exact ⟨_, rfl, .inl ⟨_, rfl, a, n, rfl, rfl⟩⟩
    | writeMultipleFrame a vs =>
      cases henc
      exact ⟨_, rfl, .inr ⟨_, rfl, a, vs, rfl, hwf, rfl⟩⟩
    | _ => cases henc

/-! ## Both encodings -/

theorem encode_eq_word_iff {sid : Byte} {i : Instr} {w : CmdWord} :
    encode sid i = .word w ↔ encodeWord i = some w := by
  cases i <;> simp [encode, encodeWord]

theorem wf_of_isCommand {i : Instr} (hi : isCommand i = true) : i.wf = true := by
  cases i with
  | writeMultipleFrame a vs => cases hi
  | _ => rfl

/-- Decoding and encoding are inverse on the codes of the well-formed instructions. -/
theorem decode_eq_ok_iff {c : Code} {i : Instr} :
    decode c = .ok i ↔ i.wf = true ∧ ∃ sid, encode sid i = c := by
  cases c with
  | word w =>
    simp only [decode, Except.ok.injEq, decodeWord_eq_iff, encode_eq_word_iff, exists_const]
    refine ⟨fun h => ⟨wf_of_isCommand ?_, h⟩, And.right⟩
    rw [isCommand, h, Option.isSome_some]
  | frame bytes =>
    simp only [decode, except_map_eq_ok_iff, Prod.exists, exists_eq_right, decodeFrame_eq_ok_iff,
      exists_and_left]

/-- Settles O4. -/
theorem decodeOfEncode : Obligations.DecodeOfEncode := fun sid _ hwf =>
  decode_eq_ok_iff.2 ⟨hwf, sid, rfl⟩

/-- Settles O5. -/
theorem encodeOfDecode : Obligations.EncodeOfDecode := fun _ _ => decode_eq_ok_iff.1

/-- Settles O3: each code is the encoding of a well-formed instruction. -/
theorem specWordsDecode : Obligations.SpecWordsDecode := by
  refine ⟨by decide, by decide, by decide, by decide, by decide, by decide, by decide, by decide,
    decode_eq_ok_iff.2 ⟨rfl, 0x09#8, by decide +kernel⟩,
    decode_eq_ok_iff.2 ⟨rfl, 0x09#8, by decide +kernel⟩⟩

/-! ## The length of a frame (R34) -/

theorem frameBytes_length (sid fc : Byte) (payload : List Byte) :
    (frameBytes sid fc payload).length = payload.length + 4 := by simp [frameBytes, sealFrame]

theorem frameBytes_getElem?_one (sid fc : Byte) (payload : List Byte) :
    (frameBytes sid fc payload)[1]? = some fc := by simp [frameBytes, sealFrame]

theorem writePayload_length (a : Word16) (vs : List Word16) :
    (writePayload a vs).length = 5 + 2 * vs.length := by
  simp [writePayload, bigEndian]
  omega

theorem frameLength?_read (sid : Byte) (payload : List Byte) :
    frameLength? (frameBytes sid Config.fcRead payload) = some 7 := by
  simp [frameBytes, sealFrame, frameLength?]

theorem frameLength?_write (sid : Byte) (payload : List Byte) :
    frameLength? (frameBytes sid Config.fcWrite payload) =
      ((frameBytes sid Config.fcWrite payload)[6]?).map (fun bc => 9 + bc.toNat) := by
  have hfc : Config.fcWrite ≠ Config.fcRead := by decide
  simp [frameBytes, sealFrame, frameLength?, hfc]

theorem frameBytes_writePayload_getElem?_six (sid fc : Byte) (a : Word16) (vs : List Word16) :
    (frameBytes sid fc (writePayload a vs))[6]? = some (BitVec.ofNat 8 (2 * vs.length)) := by
  simp [frameBytes, sealFrame, writePayload, bigEndian]

/-- Settles O9. -/
theorem frameLengthIsToldByItsBytes : Obligations.FrameLengthIsToldByItsBytes := by
  intro sid i bytes hwf henc
  cases i with
  | readHoldingFrame a n =>
    cases henc
    have hlen : (frameBytes sid Config.fcRead (readPayload a n)).length = 7 :=
      frameBytes_length _ _ _
    exact ⟨by rw [frameLength?_read, hlen], fun _ _ _ => ⟨hlen, frameBytes_getElem?_one _ _ _⟩,
      nofun⟩
  | writeMultipleFrame a vs =>
    cases henc
    obtain ⟨-, hcount⟩ := writePayload_counts hwf
    have hlen : (frameBytes sid Config.fcWrite (writePayload a vs)).length = 9 + 2 * vs.length := by
      rw [frameBytes_length, writePayload_length]
      omega
    have hbytes := frameBytes_writePayload_getElem?_six sid Config.fcWrite a vs
    refine ⟨by rw [frameLength?_write, hbytes, Option.map_some, hcount, hlen], nofun, ?_⟩
    rintro _ _ ⟨⟩
    exact ⟨hlen, frameBytes_getElem?_one _ _ _, hbytes, hcount⟩
  | _ => cases henc

/-! ## The frames the block emits (42_frames.md R51 to R53) -/

/-- In IDLE with a slave id the FRAME sequence emits the frame the encoder lays out, and leaves the
CRC of it (R51). -/
theorem frameSequence_of_ready {s : State} (hm : s.mode = .idle) (hv : s.sidValid = true)
    (fc : Byte) (payload : List Byte) :
    frameSequence fc payload s =
      { s with
        crc := computeCrc (s.sid :: fc :: payload)
        out := s.out ++ frameBytes s.sid fc payload } := by
  rw [frameSequence, sof_of_ready hm hv, putAll_of_opened payload (openFrame_mode fc s),
    eof_of_opened rfl]
  simp [closeFrame, openFrame, emit, frameBytes, sealFrame, crcField, computeCrc, hm]

/-- Settles O58: the bytes emitted are the encoder's, which the frame decoder accepts. -/
theorem emittedFrameDecodesBack : Obligations.EmittedFrameDecodesBack := by
  intro i s hwf hi hm hv
  cases i with
  | readHoldingFrame a n =>
    have hexec : exec (.readHoldingFrame a n) s = .next _ :=
      congrArg Host.Outcome.next (frameSequence_of_ready hm hv Config.fcRead (readPayload a n))
    exact ⟨_, _, hexec, rfl, rfl, decodeFrame_eq_ok_iff.2 ⟨hwf, rfl⟩⟩
  | writeMultipleFrame a vs =>
    have hexec : exec (.writeMultipleFrame a vs) s = .next _ :=
      (execWriteMultipleFrame_of_fits hwf a s).trans <|
        congrArg Host.Outcome.next
          (frameSequence_of_ready hm hv Config.fcWrite (writePayload a vs))
    exact ⟨_, _, hexec, rfl, rfl, decodeFrame_eq_ok_iff.2 ⟨hwf, rfl⟩⟩
  | _ => cases hi

end Sys2Proof.Machine
end

section
/-! The assembler on commands (30_encoding.md R36). -/

namespace Sys2Proof.Machine

/-- The shape of the three operand checks (R57). -/
theorem bounded_eq_error_iff {α : Type} {n bound : Nat} {a : α} {r e : AsmRefusal} :
    (if n < bound then Except.ok a else .error r) = .error e ↔ bound ≤ n ∧ e = r := by
  by_cases h : n < bound
  · simp [h]
  · simp [h, Nat.not_lt.1 h, eq_comm]

theorem byteOperand_eq_error_iff {d : Nat} {e : AsmRefusal} :
    byteOperand d = .error e ↔ 255 < d ∧ e = .byteDoesNotFit := bounded_eq_error_iff

theorem commandWordOperand_eq_error_iff {w : Nat} {e : AsmRefusal} :
    commandWordOperand w = .error e ↔ 2047 < w ∧ e = .commandWordDoesNotFit :=
  bounded_eq_error_iff

/-- A command with a byte operand is refused as its operand is. -/
theorem assembleByte_eq_error_iff {make : Byte → Instr} {d : Nat} {e : AsmRefusal} :
    assembleByte make d = .error e ↔ 255 < d ∧ e = .byteDoesNotFit := by
  rw [← byteOperand_eq_error_iff, assembleByte]
  cases byteOperand d <;> simp

/-- A raw word is refused as its operand is. -/
theorem assemble_word_eq_error_iff {w : Nat} {e : AsmRefusal} :
    assemble (.word w) = .error e ↔ 2047 < w ∧ e = .commandWordDoesNotFit := by
  rw [← commandWordOperand_eq_error_iff, assemble]
  cases commandWordOperand w <;> simp

/-- Settles O59. -/
theorem commandOperandsThatDoNotFitAreRefused :
    Obligations.CommandOperandsThatDoNotFitAreRefused :=
  ⟨fun _ _ => ⟨assembleByte_eq_error_iff, assembleByte_eq_error_iff, assembleByte_eq_error_iff,
    assembleByte_eq_error_iff, assemble_word_eq_error_iff⟩, fun _ => ⟨nofun, nofun, nofun⟩⟩

/-- Settles O10. -/
theorem assemblerExamples : Obligations.AssemblerExamples := by
  unfold Obligations.AssemblerExamples
  decide

end Sys2Proof.Machine
end

section
/-! The CRC algorithm (40_crc.md R37 to R39). The table form rests on two facts about iterations of
`crcShift`: they spread over XOR, and on a register whose low bits are clear they only shift. -/

namespace Sys2Proof.Machine

theorem crcShifts_eq_iterate (n : Nat) (r : Word16) : crcShifts n r = crcShift^[n] r := by
  induction n generalizing r with
  | zero => rfl
  | succ n ih => exact ih (crcShift r)

/-- Settles O13. -/
theorem crcStepIsEightShiftsAndXors : Obligations.CrcStepIsEightShiftsAndXors :=
  ⟨fun _ _ => crcShifts_eq_iterate 8 _, by decide⟩

theorem crcFold_eq_foldl (c : Word16) (bs : List Byte) : crcFold c bs = bs.foldl crcStep c := by
  induction bs generalizing c with
  | nil => rfl
  | cons b bs ih => exact ih (crcStep c b)

/-- Settles O14. -/
theorem computeCrcIsTheLeftFold : Obligations.ComputeCrcIsTheLeftFold :=
  ⟨crcFold_eq_foldl Config.crcInit, rfl, by decide +kernel⟩

theorem crcShift_of_even {r : Word16} (h : r.getLsbD 0 = false) : crcShift r = r >>> 1 := by
  rw [crcShift, h, if_neg Bool.false_ne_true]

/-- As long as only zeros are shifted out, nothing is XORed in. -/
theorem crcShifts_of_low_zeros {n : Nat} {r : Word16} (h : ∀ i < n, r.getLsbD i = false) :
    crcShifts n r = r >>> n := by
  induction n generalizing r with
  | zero => rfl
  | succ n ih =>
    have hlow : ∀ i < n, (r >>> 1).getLsbD i = false := fun i hi => by
      rw [BitVec.getLsbD_ushiftRight]
      exact h _ (by omega)
    calc crcShifts (n + 1) r
      _ = crcShifts n (r >>> 1) := by rw [crcShifts, crcShift_of_even (h 0 n.succ_pos)]
      _ = r >>> 1 >>> n := ih hlow
      _ = r >>> (n + 1) := by rw [← BitVec.shiftRight_add, Nat.add_comm]

/-- Folding in a byte leaves the high byte as it is. -/
theorem xor_byte_shift (c : Word16) (b : Byte) : (c ^^^ b.setWidth 16) >>> 8 = c >>> 8 := by
  have hbyte : b.setWidth 16 >>> 8 = 0#16 := by bv_omega
  rw [BitVec.ushiftRight_xor_distrib, hbyte, BitVec.xor_zero]

/-- Eight iterations shift the high byte down and XOR in what they make of the low byte. -/
theorem crcShifts_eight (r : Word16) :
    crcShifts 8 r = (r >>> 8) ^^^ crcShifts 8 ((r.setWidth 8).setWidth 16) := by
  have hsplit : r = (r ^^^ (r.setWidth 8).setWidth 16) ^^^ (r.setWidth 8).setWidth 16 := by
    rw [BitVec.xor_assoc, BitVec.xor_self, BitVec.xor_zero]
  have hlow (i : Nat) (hi : i < 8) : (r ^^^ (r.setWidth 8).setWidth 16).getLsbD i = false := by
    have hi16 : i < 16 := by omega
    simp [hi, hi16]
  calc crcShifts 8 r
    _ = crcShifts 8 (r ^^^ (r.setWidth 8).setWidth 16) ^^^
          crcShifts 8 ((r.setWidth 8).setWidth 16) := by rw [← crcShifts_xor, ← hsplit]
    _ = (r >>> 8) ^^^ crcShifts 8 ((r.setWidth 8).setWidth 16) := by
      rw [crcShifts_of_low_zeros hlow, xor_byte_shift]

/-- Settles O15. -/
theorem tableFormEqualsBitwiseForm : Obligations.TableFormEqualsBitwiseForm := by
  intro c b
  calc crcStep c b
    _ = ((c ^^^ b.setWidth 16) >>> 8) ^^^
          crcShifts 8 (((c ^^^ b.setWidth 16).setWidth 8).setWidth 16) := crcShifts_eight _
    _ = (c >>> 8) ^^^ crcStep 0x0000#16 ((c ^^^ b.setWidth 16).setWidth 8) := by
      rw [xor_byte_shift, crcStep, BitVec.zero_xor]

end Sys2Proof.Machine
end

section
/-! The commands of the CRC generator (40_crc.md R40, R41). -/

namespace Sys2Proof.Machine

theorem exec_crcinit (x : Byte) (s : State) : exec (.crcinit x) s = .next (crcinit s) := rfl

theorem exec_crcfeed (d : Byte) (s : State) : exec (.crcfeed d) s = .next (crcfeed d s) := rfl

theorem exec_crcinit_of_idle {s : State} (hm : s.mode = .idle) (x : Byte) :
    exec (.crcinit x) s = .next { s with crc := 0xFFFF#16 } := by
  rw [exec_crcinit, crcinit_of_idle hm, Config.crcInit]

theorem exec_crcfeed_of_idle {s : State} (hm : s.mode = .idle) (d : Byte) :
    exec (.crcfeed d) s = .next { s with crc := crcStep s.crc d } := by
  rw [exec_crcfeed, crcfeed_of_idle hm]

/-- Settles O19. -/
theorem crcinitResetsTheCrc : Obligations.CrcinitResetsTheCrc := by
  refine ⟨fun x => ⟨decodeWord_crcinit x, cmdWord_toNat 2#3 x⟩,
    fun x s hm => exec_crcinit_of_idle hm x, fun x s hm => ?_, fun x s hm hcrc => ?_,
    fun x s t _ hm h => ?_⟩
  · rw [exec_crcinit, crcinit_of_opened hm, record_eq]
  · rw [exec_crcinit_of_idle hm, ← hcrc]
  · rw [exec_crcinit_of_idle hm] at h
    cases h
    exact ⟨rfl, status_crc _⟩

theorem execAll_crcfeeds (ds : List Byte) (s : State) :
    execAll (ds.map .crcfeed) s = .next (feedAll ds s) := by
  induction ds generalizing s with
  | nil => rfl
  | cons d ds ih => exact (execAll_cons_of_next (exec_crcfeed d s) _).trans (ih _)

/-- CRCINIT and CRCFEEDs are the CRC16 sequence (42_frames.md R50), in either mode. -/
theorem execAll_crcinit_crcfeeds (x : Byte) (ds : List Byte) (s : State) :
    execAll (.crcinit x :: ds.map .crcfeed) s = .next (crcSequence ds s) :=
  (execAll_cons_of_next (exec_crcinit x s) _).trans (execAll_crcfeeds ds _)

/-- Settles O20. -/
theorem crcfeedFoldsOneByte : Obligations.CrcfeedFoldsOneByte := by
  refine ⟨fun d => ⟨decodeWord_crcfeed d, cmdWord_toNat 3#3 d⟩,
    fun d s hm => exec_crcfeed_of_idle hm d, fun d s hm => ?_, fun x ds s hm => ?_,
    fun s hm hcrc => ?_⟩
  · rw [exec_crcfeed, crcfeed_of_opened hm, record_eq]
  · refine ⟨{ s with crc := computeCrc ds }, ?_, rfl, status_crc _⟩
    rw [execAll_crcinit_crcfeeds, crcSequence_of_idle hm]
  · have hstep : crcStep 0xFFFF#16 0x00#8 = 0x40BF#16 := by decide
    rw [exec_crcfeed_of_idle hm, hcrc, hstep]

end Sys2Proof.Machine
end

section
/-! The commands of the frame serializer, one at a time (41_serializer.md R42 to R46): each either
runs, and is its effect, or records the error of its check. -/

namespace Sys2Proof.Machine

theorem exec_of_raises_none {i : Instr} {s : State} (hi : isCommand i = true)
    (hn : raises i s = none) : exec i s = .next (commandEffect i s) := by
  rw [exec_of_command hi, hn, guarded_none]

/-- A command that errs does nothing but record the cause (60_exceptions.md R64). -/
theorem exec_of_raises {i : Instr} {k : Cause} {s : State} (hi : isCommand i = true)
    (hk : raises i s = some k) :
    exec i s = .next { s with err := true, ecause := if s.err then s.ecause else k } := by
  rw [exec_of_command hi, hk, guarded_some, record_eq]

/-! ## The commands that run -/

theorem exec_setsid_of_idle {s : State} (hm : s.mode = .idle) (d : Byte) :
    exec (.setsid d) s = .next { s with sid := d, sidValid := true } :=
  exec_of_raises_none rfl (checkIdle_of_idle hm)

theorem exec_sof_of_ready {s : State} (hm : s.mode = .idle) (hv : s.sidValid = true) (d : Byte) :
    exec (.sof d) s =
      .next { s with
        out := s.out ++ [s.sid, d]
        crc := computeCrc [s.sid, d]
        mode := .opened } := by
  rw [exec_of_raises_none (i := .sof d) rfl (checkSof_of_ready hm hv)]
  simp [commandEffect, openFrame, emit, computeCrc_pair]

theorem exec_put_of_opened {s : State} (hm : s.mode = .opened) (d : Byte) :
    exec (.put d) s = .next { s with out := s.out ++ [d], crc := crcStep s.crc d } :=
  exec_of_raises_none rfl (checkOpen_of_opened hm)

theorem exec_eof_of_opened {s : State} (hm : s.mode = .opened) (x : Byte) :
    exec (.eof x) s = .next { s with out := s.out ++ [lo8 s.crc, hi8 s.crc], mode := .idle } := by
  rw [exec_of_raises_none (i := .eof x) rfl (checkOpen_of_opened hm)]
  simp [commandEffect, closeFrame, emit]

/-! ## Settling O17, O18, O21 and O22 -/

/-- Settles O17. -/
theorem nopDoesNothing : Obligations.NopDoesNothing := fun x _ =>
  ⟨decodeWord_nop x, by simp [cmdWord_toNat], rfl⟩

/-- Settles O18. -/
theorem setsidSetsTheSlaveId : Obligations.SetsidSetsTheSlaveId := by
  refine ⟨fun d => ⟨decodeWord_setsid d, cmdWord_toNat 1#3 d⟩,
    fun d s hm => exec_setsid_of_idle hm d,
    fun d s hm => exec_of_raises rfl (checkIdle_of_opened hm), fun s hm hv => ?_, fun s t h => ?_⟩
  · rw [exec_setsid_of_idle hm, ← hv]
  · rw [exec_setsid_of_idle rfl] at h
    cases h
    exact ⟨rfl, status_sidValid _⟩

/-- Settles O21. -/
theorem sofStartsAFrame : Obligations.SofStartsAFrame := by
  refine ⟨fun d => ⟨decodeWord_sof d, cmdWord_toNat 4#3 d⟩,
    fun d s hm hv => exec_sof_of_ready hm hv d,
    fun d s hm => exec_of_raises rfl (checkSof_of_opened hm),
    fun d s hm hv => exec_of_raises rfl (checkSof_of_unset hm hv), fun d c s hm hv => ?_,
    fun d s t hm hv h => ?_, fun s hm hv hsid => ?_⟩
  · have hc : ({ s with crc := c } : State).mode = .idle := hm
    rw [exec_sof_of_ready hm hv, exec_sof_of_ready hc hv]
  · rw [exec_sof_of_ready hm hv] at h
    cases h
    rfl
  · have hcrc : computeCrc [0x09#8, 0x10#8] = 0x2C06#16 := by decide +kernel
    rw [exec_sof_of_ready hm hv, hsid, hcrc]

/-- Settles O22. -/
theorem putAppendsOneByte : Obligations.PutAppendsOneByte := by
  refine ⟨fun d => ⟨decodeWord_put d, cmdWord_toNat 5#3 d⟩, fun d s hm => exec_put_of_opened hm d,
    fun d s hm => exec_of_raises rfl (checkOpen_of_idle hm), fun s hm hcrc => ?_⟩
  have hstep : crcStep 0x2C06#16 0x03#8 = 0x03EC#16 := by decide
  rw [exec_put_of_opened hm, hcrc, hstep]

/-! ## EOF and the CRC after it -/

/-- An EOF, discarded or not, keeps the running CRC (R46). -/
theorem exec_eof_crc {x : Byte} {s t : State} (h : exec (.eof x) s = .next t) : t.crc = s.crc := by
  rcases exec_cases rfl h with ⟨k, -, rfl⟩ | ⟨-, rfl⟩
  · exact record_crc k s
  · exact closeFrame_crc s

/-- In IDLE the CRC is written by CRCINIT, CRCFEED and SOF alone, and the mode by SOF alone: PUT and
EOF err there (R45, R46). -/
theorem exec_keeps_crc_of_idle {i : Instr} {s t : State} (hi : isCommand i = true)
    (hm : s.mode = .idle) (hcrc : ∀ d, i ≠ .crcinit d ∧ i ≠ .crcfeed d ∧ i ≠ .sof d)
    (h : exec i s = .next t) : t.mode = .idle ∧ t.crc = s.crc := by
  rcases exec_cases hi h with ⟨k, -, rfl⟩ | ⟨hn, rfl⟩
  · exact ⟨(record_mode k s).trans hm, record_crc k s⟩
  · cases i with
    | crcinit x => exact absurd rfl (hcrc x).1
    | crcfeed d => exact absurd rfl (hcrc d).2.1
    | sof d => exact absurd rfl (hcrc d).2.2
    | put d => cases (checkOpen_of_idle hm).symm.trans hn
    | eof x => cases (checkOpen_of_idle hm).symm.trans hn
    | _ => exact ⟨hm, rfl⟩

/-- Settles O23. -/
theorem eofClosesTheFrame : Obligations.EofClosesTheFrame := by
  refine ⟨fun x => ⟨decodeWord_eof x, cmdWord_toNat 6#3 x⟩, fun x s hm => exec_eof_of_opened hm x,
    fun x s hm => exec_of_raises rfl (checkOpen_of_idle hm), fun x s t h => ?_,
    fun i s t hi hm hcrc h => ?_, fun f x s hm hv => ?_, fun x s hm hcrc => ?_⟩
  · rw [status_crc, exec_eof_crc h]
  · rw [status_crc, status_crc]
    exact exec_keeps_crc_of_idle hi hm hcrc h
  · have hsof := execAll_cons_of_next (exec_sof_of_ready hm hv f) [.eof x]
    exact ⟨_, hsof.trans (execAll_cons_of_next (exec_eof_of_opened rfl x) []), by simp⟩
  · have hbytes : [lo8 0x4694#16, hi8 0x4694#16] = [0x94#8, 0x46#8] := by decide
    rw [exec_eof_of_opened hm, hcrc, hbytes]

end Sys2Proof.Machine
end

section
/-! Commands inside an open frame (41_serializer.md R47 to R49): up to the error they record, any
commands but EOF do what the PUTs among them do, so a SOF, such commands and an EOF are one
frame. -/

namespace Sys2Proof.Machine

/-! ## One command in an open frame -/

/-- In OPEN every command but NOP, PUT and EOF errs (60_exceptions.md R63). -/
theorem exists_raises_of_opened {i : Instr} {s : State} (hi : isCommand i = true)
    (hm : s.mode = .opened) (hother : ∀ d, i ≠ .put d ∧ i ≠ .eof d) (hnop : ∀ x, i ≠ .nop x) :
    ∃ k, raises i s = some k := by
  cases i with
  | nop x => exact absurd rfl (hnop x)
  | setsid d => exact ⟨_, checkIdle_of_opened hm⟩
  | crcinit x => exact ⟨_, checkIdle_of_opened hm⟩
  | crcfeed d => exact ⟨_, checkIdle_of_opened hm⟩
  | sof d => exact ⟨_, checkSof_of_opened hm⟩
  | put d => exact absurd rfl (hother d).1
  | eof x => exact absurd rfl (hother x).2
  | reserved x => exact ⟨_, rfl⟩
  | readHoldingFrame a n => cases hi
  | writeMultipleFrame a vs => cases hi

/-- In OPEN a command but PUT and EOF changes the error at most (R47). -/
theorem exec_of_opened_other {i : Instr} {s : State} (hi : isCommand i = true)
    (hm : s.mode = .opened) (hother : ∀ d, i ≠ .put d ∧ i ≠ .eof d) :
    ∃ e k, exec i s = .next { s with err := e, ecause := k } := by
  by_cases hnop : ∃ x, i = .nop x
  · obtain ⟨x, rfl⟩ := hnop
    exact ⟨s.err, s.ecause, rfl⟩
  · obtain ⟨k, hk⟩ := exists_raises_of_opened hi hm hother (not_exists.1 hnop)
    exact ⟨_, _, exec_of_raises hi hk⟩

/-! ## Command sequences in an open frame -/

theorem staysOpen_cons_iff {i : Instr} {is : List Instr} :
    staysOpen (i :: is) = true ↔
      (isCommand i = true ∧ ∀ x, i ≠ .eof x) ∧ staysOpen is = true := by
  cases i <;> simp [staysOpen, isCommand, encodeWord]

theorem payloadOf_cons_of_not_put {i : Instr} (h : ∀ d, i ≠ .put d) (is : List Instr) :
    payloadOf (i :: is) = payloadOf is := by
  cases i with
  | put d => exact absurd rfl (h d)
  | _ => rfl

/-- Of the commands that leave a frame open only the PUTs act on it. -/
theorem execAll_of_opened {is : List Instr} (his : staysOpen is = true) {s : State}
    (hm : s.mode = .opened) (rest : List Instr) :
    ∃ e k, execAll (is ++ rest) s =
      execAll rest { s with
        out := s.out ++ payloadOf is
        crc := crcFold s.crc (payloadOf is)
        err := e
        ecause := k } := by
  induction is generalizing s with
  | nil => exact ⟨s.err, s.ecause, by simp [payloadOf]⟩
  | cons i is ih =>
    obtain ⟨⟨hi, heof⟩, his⟩ := staysOpen_cons_iff.1 his
    by_cases hput : ∃ d, i = .put d
    · obtain ⟨d, rfl⟩ := hput
      have hexec := exec_put_of_opened hm d
      obtain ⟨e, k, hrest⟩ :=
        ih his (s := { s with out := s.out ++ [d], crc := crcStep s.crc d }) hm
      refine ⟨e, k, (execAll_cons_of_next hexec _).trans (hrest.trans ?_)⟩
      simp [payloadOf]
    · have hput := not_exists.1 hput
      obtain ⟨e', k', hexec⟩ := exec_of_opened_other hi hm fun d => ⟨hput d, heof d⟩
      obtain ⟨e, k, hrest⟩ := ih his (s := { s with err := e', ecause := k' }) hm
      rw [payloadOf_cons_of_not_put hput]
      exact ⟨e, k, (execAll_cons_of_next hexec _).trans hrest⟩

section
variable {s : State} (hm : s.mode = .idle) (hv : s.sidValid = true) (f : Byte) {is : List Instr}
  (his : staysOpen is = true)
include hm hv his

/-- After a SOF and any commands but EOF the frame so far stands at the end of `out`, and `crc` is
the CRC of it (R49). -/
theorem execAll_sof_inside (rest : List Instr) :
    ∃ e k, execAll (.sof f :: (is ++ rest)) s =
      execAll rest { s with
        mode := .opened
        out := s.out ++ (s.sid :: f :: payloadOf is)
        crc := computeCrc (s.sid :: f :: payloadOf is)
        err := e
        ecause := k } := by
  have hsof := exec_sof_of_ready hm hv f
  obtain ⟨e, k, hinside⟩ := execAll_of_opened his (s := { s with
    out := s.out ++ [s.sid, f], crc := computeCrc [s.sid, f], mode := .opened }) rfl rest
  refine ⟨e, k, (execAll_cons_of_next hsof _).trans (hinside.trans ?_)⟩
  simp [← computeCrc_append]

/-- A SOF, any commands but EOF, and an EOF emit one frame, that of the PUT bytes, and leave the CRC
of it (R47). -/
theorem execAll_sof_inside_eof (x : Byte) (rest : List Instr) :
    ∃ e k, execAll (.sof f :: (is ++ .eof x :: rest)) s =
      execAll rest { s with
        out := s.out ++ frameBytes s.sid f (payloadOf is)
        crc := computeCrc (s.sid :: f :: payloadOf is)
        err := e
        ecause := k } := by
  obtain ⟨e, k, hopen⟩ := execAll_sof_inside hm hv f his (.eof x :: rest)
  refine ⟨e, k, hopen.trans ((execAll_cons_of_next (exec_eof_of_opened rfl x) rest).trans ?_)⟩
  simp [frameBytes, sealFrame, crcField, hm]

end

/-! ## Settling O46 and O48 -/

/-- Settles O46. -/
theorem frameContent : Obligations.FrameContent := by
  refine ⟨fun f x is s hm hv his => ?_, fun i s t hi hm hother h => ?_⟩
  · obtain ⟨e, k, hframe⟩ := execAll_sof_inside_eof hm hv f his x []
    exact ⟨_, hframe, ⟨_, _, rfl, rfl, rfl, by simp, rfl⟩, hm⟩
  · obtain ⟨e, k, hexec⟩ := exec_of_opened_other hi hm hother
    cases hexec.symm.trans h
    refine ⟨rfl, rfl, rfl, fun hnop => ?_⟩
    obtain ⟨k, hk⟩ := exists_raises_of_opened hi hm hother hnop
    simp [hk]

/-- In IDLE commands that do not write the CRC keep it, one after another (R49). -/
theorem execAll_keeps_crc_of_idle {is : List Instr}
    (his : ∀ i ∈ is, isCommand i = true ∧ ∀ d, i ≠ .crcinit d ∧ i ≠ .crcfeed d ∧ i ≠ .sof d)
    {s : State} (hm : s.mode = .idle) :
    ∃ t, execAll is s = .next t ∧ t.mode = .idle ∧ t.crc = s.crc := by
  induction is generalizing s with
  | nil => exact ⟨s, rfl, hm, rfl⟩
  | cons i is ih =>
    obtain ⟨⟨hi, hcrc⟩, his⟩ := List.forall_mem_cons.1 his
    obtain ⟨u, hu, -⟩ := exec_completes hi s
    obtain ⟨hum, hucrc⟩ := exec_keeps_crc_of_idle hi hm hcrc hu
    obtain ⟨t, ht, htm, htcrc⟩ := ih his hum
    exact ⟨t, (execAll_cons_of_next hu is).trans ht, htm, htcrc.trans hucrc⟩

/-- Settles O48. -/
theorem statusShowsTheFrameCrc : Obligations.StatusShowsTheFrameCrc := by
  refine ⟨fun f is s hm hv his => ?_, fun f x is after s hm hv his hafter => ?_⟩
  · obtain ⟨e, k, hopen⟩ := execAll_sof_inside hm hv f his []
    rw [List.append_nil] at hopen
    exact ⟨_, hopen, rfl, rfl, status_crc _⟩
  · obtain ⟨e, k, hframe⟩ := execAll_sof_inside_eof hm hv f his x after
    obtain ⟨t, ht, htm, htcrc⟩ := execAll_keeps_crc_of_idle hafter (s := { s with
      out := s.out ++ frameBytes s.sid f (payloadOf is)
      crc := computeCrc (s.sid :: f :: payloadOf is)
      err := e
      ecause := k }) hm
    exact ⟨t, hframe.trans ht, htm, (status_crc t).trans htcrc⟩

end Sys2Proof.Machine
end

section
/-! What emitted bytes depend on (41_serializer.md R48). -/

namespace Sys2Proof.Machine

/-- The two states emit alike: they agree on the mode, on the slave id, and in an open frame on the
CRC so far. Outside a frame `crc` reaches no emitted byte, because SOF starts it over (R44). -/
structure EmitAlike (s t : State) : Prop where
  mode : s.mode = t.mode
  sid : s.sid = t.sid
  sidValid : s.sidValid = t.sidValid
  openCrc : s.mode = .opened → s.crc = t.crc

section
variable {i : Instr} {s t : State}

theorem emitAlike_record (h : EmitAlike s t) (k : Cause) : EmitAlike (record k s) (record k t) where
  mode := by simp [h.mode]
  sid := by simp [h.sid]
  sidValid := by simp [h.sidValid]
  openCrc := by simpa using h.openCrc

/-- EOF, the one command that emits the CRC, runs only in OPEN, where the CRCs agree. -/
theorem emittedBy_eq_of_emitAlike (h : EmitAlike s t) (hn : raises i s = none) :
    emittedBy i s = emittedBy i t := by
  cases i with
  | sof d => simp [emittedBy, h.sid]
  | eof x => simp [emittedBy, h.openCrc (checkOpen_eq_none_iff.1 hn)]
  | _ => rfl

/-- The commands that change `crc` to what depends on the old one run in IDLE (CRCFEED) or where the
CRCs agree (PUT). -/
theorem emitAlike_commandEffect (h : EmitAlike s t) (hn : raises i s = none) :
    EmitAlike (commandEffect i s) (commandEffect i t) := by
  obtain ⟨hmode, hsid, hvalid, hcrc⟩ := h
  cases i with
  | setsid d => exact ⟨hmode, rfl, rfl, hcrc⟩
  | crcinit x => exact ⟨hmode, hsid, hvalid, fun _ => rfl⟩
  | crcfeed d =>
    refine ⟨hmode, hsid, hvalid, fun hopen : s.mode = .opened => ?_⟩
    cases (checkIdle_eq_none_iff.1 hn).symm.trans hopen
  | sof d =>
    refine ⟨rfl, hsid, hvalid, fun _ => ?_⟩
    simp [commandEffect, hsid]
  | put d =>
    refine ⟨hmode, hsid, hvalid, fun hopen : s.mode = .opened => ?_⟩
    exact congrArg (crcStep · d) (hcrc hopen)
  | eof x => exact ⟨rfl, hsid, hvalid, nofun⟩
  | _ => exact ⟨hmode, hsid, hvalid, hcrc⟩

end

/-- One command from two states that emit alike emits the same, and they emit alike after it. -/
theorem emitAlike_exec {i : Instr} {s t u v : State} (h : EmitAlike s t) (hi : isCommand i = true)
    (hu : exec i s = .next u) (hv : exec i t = .next v) :
    EmitAlike u v ∧ ∃ bytes, u.out = s.out ++ bytes ∧ v.out = t.out ++ bytes := by
  have hraise : raises i t = raises i s := raises_congr h.mode.symm h.sidValid.symm i
  rcases exec_pair_cases hi hu hv hraise with ⟨k, -, rfl, rfl⟩ | ⟨hn, rfl, rfl⟩
  · exact ⟨emitAlike_record h k, [], by simp⟩
  · exact ⟨emitAlike_commandEffect h hn, emittedBy i s, by simp,
      by simp [emittedBy_eq_of_emitAlike h hn]⟩

theorem execAll_emits_same {is : List Instr} {s t : State} (h : EmitAlike s t)
    (his : ∀ i ∈ is, isCommand i = true) :
    ∃ s' t' bytes, execAll is s = .next s' ∧ execAll is t = .next t' ∧
      s'.out = s.out ++ bytes ∧ t'.out = t.out ++ bytes := by
  induction is generalizing s t with
  | nil => exact ⟨s, t, [], rfl, rfl, by simp⟩
  | cons i is ih =>
    obtain ⟨hi, his⟩ := List.forall_mem_cons.1 his
    obtain ⟨u, hu, -⟩ := exec_completes hi s
    obtain ⟨v, hv, -⟩ := exec_completes hi t
    obtain ⟨hnext, first, hus, hvt⟩ := emitAlike_exec h hi hu hv
    obtain ⟨s', t', later, hs', ht', hsout, htout⟩ := ih hnext his
    exact ⟨s', t', first ++ later, (execAll_cons_of_next hu is).trans hs',
      (execAll_cons_of_next hv is).trans ht', by simp [hsout, hus], by simp [htout, hvt]⟩

/-- Settles O47: two IDLE states with the same slave id emit alike, and a frame is that of its slave
id, its function code and its PUT bytes. -/
theorem emittedBytesDependOnSlaveIdAndCommandsOnly :
    Obligations.EmittedBytesDependOnSlaveIdAndCommandsOnly := by
  refine ⟨fun is s t hsm htm hsv htv hsid his => ?_,
    fun f x y is js s t hsm htm hsv htv hsid his hjs hpayload => ?_⟩
  · have halike : EmitAlike s t := ⟨hsm.trans htm.symm, hsid, hsv.trans htv.symm,
      fun hopen => nomatch hsm.symm.trans hopen⟩
    exact execAll_emits_same halike his
  · obtain ⟨e, k, hs⟩ := execAll_sof_inside_eof hsm hsv f his x []
    obtain ⟨e', k', ht⟩ := execAll_sof_inside_eof htm htv f hjs y []
    rw [← hsid, ← hpayload] at ht
    exact ⟨_, _, frameBytes s.sid f (payloadOf is), hs, ht, rfl, rfl⟩

end Sys2Proof.Machine
end

section
/-! A pseudo-instruction is its command sequence (42_frames.md R50 to R55): its function code and
payload, its words, and its meaning as the fold of the commands. -/

namespace Sys2Proof.Machine

/-! ## The commands of a sequence one after another -/

theorem exec_sof (f : Byte) (s : State) : exec (.sof f) s = .next (sof f s) := rfl

theorem exec_put (d : Byte) (s : State) : exec (.put d) s = .next (put d s) := rfl

theorem exec_eof (x : Byte) (s : State) : exec (.eof x) s = .next (eof s) := rfl

theorem execAll_puts (ps : List Byte) (rest : List Instr) (s : State) :
    execAll (ps.map .put ++ rest) s = execAll rest (putAll ps s) := by
  induction ps generalizing s with
  | nil => rfl
  | cons p ps ih => exact (execAll_cons_of_next (exec_put p s) _).trans (ih _)

/-- SOF, PUTs and EOF are the FRAME sequence (R51), in either mode. -/
theorem execAll_sof_puts_eof (f x : Byte) (ps : List Byte) (s : State) :
    execAll (.sof f :: (ps.map .put ++ [.eof x])) s = .next (frameSequence f ps s) :=
  calc execAll (.sof f :: (ps.map .put ++ [.eof x])) s
    _ = execAll (ps.map .put ++ [.eof x]) (sof f s) := execAll_cons_of_next (exec_sof f s) _
    _ = execAll [.eof x] (putAll ps (sof f s)) := execAll_puts ps _ _
    _ = .next (frameSequence f ps s) := execAll_cons_of_next (exec_eof x _) []

/-! ## The two kinds of pseudo-instruction -/

theorem eq_crc16_or_frameParts (p : Pseudo) :
    (∃ bs, p = .crc16 bs) ∨ ∃ f ps, p.frameParts = some (f, ps) := by
  cases p with
  | crc16 bs => exact .inl ⟨bs, rfl⟩
  | _ => exact .inr ⟨_, _, rfl⟩

section
variable {p : Pseudo} {f : Byte} {ps : List Byte} (hp : p.frameParts = some (f, ps))
include hp

theorem expansion_of_frameParts : p.expansion = frameExpansion f ps := by
  cases p with
  | crc16 bs => cases hp
  | _ =>
    cases hp
    rfl

/-- Where its operands fit, a frame pseudo-instruction is the FRAME sequence of its function code
and payload. -/
theorem execPseudo_of_frameParts (hfits : p.fits = true) (s : State) :
    execPseudo p s = .next (frameSequence f ps s) := by
  cases p with
  | crc16 bs => cases hp
  | writeFrame a vs =>
    cases hp
    exact execWriteMultipleFrame_of_fits hfits a s
  | _ =>
    cases hp
    rfl

end

theorem execAll_expansion {p : Pseudo} (hfits : p.fits = true) (s : State) :
    execAll p.expansion s = execPseudo p s := by
  rcases eq_crc16_or_frameParts p with ⟨bs, rfl⟩ | ⟨f, ps, hp⟩
  · exact execAll_crcinit_crcfeeds 0#8 bs s
  · rw [expansion_of_frameParts hp, execPseudo_of_frameParts hp hfits]
    exact execAll_sof_puts_eof f 0#8 ps s

/-! ## The words of a pseudo-instruction -/

theorem isCommand_of_mem_expansion (p : Pseudo) : ∀ i ∈ p.expansion, isCommand i = true := by
  rcases eq_crc16_or_frameParts p with ⟨bs, rfl⟩ | ⟨f, ps, hp⟩
  · simp [Pseudo.expansion, isCommand, encodeWord]
  · simp [expansion_of_frameParts hp, frameExpansion, or_imp, forall_and, isCommand, encodeWord]

/-- Commands lose nothing when they are encoded as words (30_encoding.md R26). -/
theorem map_decodeWord_filterMap_encodeWord {is : List Instr}
    (his : ∀ i ∈ is, isCommand i = true) : (is.filterMap encodeWord).map decodeWord = is := by
  induction is with
  | nil => rfl
  | cons i is ih =>
    obtain ⟨hi, his⟩ := List.forall_mem_cons.1 his
    obtain ⟨w, hw⟩ := Option.isSome_iff_exists.1 hi
    rw [List.filterMap_cons_some hw, List.map_cons, decodeWord_eq_iff.2 hw, ih his]

theorem map_decodeWord_words (p : Pseudo) : p.words.map decodeWord = p.expansion :=
  map_decodeWord_filterMap_encodeWord (isCommand_of_mem_expansion p)

/-- Settles O57: the words decode to the expansion, whose commands fold to the pseudo-instruction's
meaning. -/
theorem pseudoInstructionIsItsWords : Obligations.PseudoInstructionIsItsWords := by
  intro p rest s hfits
  calc stepMany p.words.length { s with inbox := p.words.map .cmd ++ rest }
    _ = execAll (p.words.map decodeWord) { s with inbox := rest } := stepMany_of_cmds rfl
    _ = execAll p.expansion { s with inbox := rest } := by rw [map_decodeWord_words]
    _ = execPseudo p { s with inbox := rest } := execAll_expansion hfits _
    _ = step { s with inbox := .pseudo p :: rest } := rfl

theorem crc16_words (bs : List Byte) :
    (Pseudo.crc16 bs).words = 0x200#11 :: bs.map (cmdWord 3#3) := by
  have hfeeds : encodeWord ∘ Instr.crcfeed = some ∘ cmdWord 3#3 := rfl
  have hinit : encodeWord (.crcinit 0#8) = some 0x200#11 := rfl
  rw [Pseudo.words, Pseudo.expansion, List.filterMap_cons_some hinit, List.filterMap_map, hfeeds,
    List.filterMap_eq_map]

theorem words_of_frameParts {p : Pseudo} {f : Byte} {ps : List Byte}
    (hp : p.frameParts = some (f, ps)) :
    p.words = cmdWord 4#3 f :: (ps.map (cmdWord 5#3) ++ [0x600#11]) := by
  have hputs : encodeWord ∘ Instr.put = some ∘ cmdWord 5#3 := rfl
  have hsof : encodeWord (.sof f) = some (cmdWord 4#3 f) := rfl
  rw [Pseudo.words, expansion_of_frameParts hp, frameExpansion, List.filterMap_cons_some hsof,
    List.filterMap_append, List.filterMap_map, hputs, List.filterMap_eq_map]
  rfl

end Sys2Proof.Machine
end

section
/-! The payloads of the read and the write frame (30_encoding.md R31, R32), byte by byte. -/

namespace Sys2Proof.Machine

/-- A number below 256 is written as a zero byte and itself. -/
theorem hi8_ofNat_of_lt {n : Nat} (h : n < 256) : hi8 (BitVec.ofNat 16 n) = 0x00#8 := by
  apply BitVec.eq_of_toNat_eq
  simp [hi8, Nat.shiftRight_eq_div_pow]
  omega

theorem lo8_ofNat (n : Nat) : lo8 (BitVec.ofNat 16 n) = BitVec.ofNat 8 n := by
  apply BitVec.eq_of_toNat_eq
  simp [lo8]

theorem bigEndianAll_eq_flatMap (vs : List Word16) :
    bigEndianAll vs = vs.flatMap fun v => [hi8 v, lo8 v] := by
  induction vs with
  | nil => rfl
  | cons v vs ih => rw [bigEndianAll, ih, List.flatMap_cons, bigEndian]

theorem writePayload_eq (a : Word16) (vs : List Word16) :
    writePayload a vs =
      [hi8 a, lo8 a, hi8 (BitVec.ofNat 16 vs.length), lo8 (BitVec.ofNat 16 vs.length),
        BitVec.ofNat 8 (2 * vs.length)] ++ vs.flatMap fun v => [hi8 v, lo8 v] := by
  rw [writePayload, bigEndianAll_eq_flatMap]
  rfl

/-- The words of R52. -/
theorem readFrame_words (a : Word16) (n : Byte) :
    (Pseudo.readFrame a n).words =
      [0x403#11, cmdWord 5#3 (hi8 a), cmdWord 5#3 (lo8 a), cmdWord 5#3 n, 0x600#11] :=
  words_of_frameParts (p := .readFrame a n) rfl

/-- The words of R53. -/
theorem writeFrame_words (a : Word16) {vs : List Word16} (h : vs.length ≤ 127) :
    (Pseudo.writeFrame a vs).words =
      [0x410#11, cmdWord 5#3 (hi8 a), cmdWord 5#3 (lo8 a), 0x500#11,
        cmdWord 5#3 (BitVec.ofNat 8 vs.length), cmdWord 5#3 (BitVec.ofNat 8 (2 * vs.length))] ++
      vs.flatMap (fun v => [cmdWord 5#3 (hi8 v), cmdWord 5#3 (lo8 v)]) ++ [0x600#11] := by
  have hzero : hi8 (BitVec.ofNat 16 vs.length) = 0x00#8 := hi8_ofNat_of_lt (by omega)
  have hsof : cmdWord 4#3 Config.fcWrite = 0x410#11 := rfl
  have hput : cmdWord 5#3 0x00#8 = 0x500#11 := rfl
  rw [words_of_frameParts rfl, writePayload_eq, hzero, lo8_ofNat, hsof]
  simp [List.map_flatMap, hput]

theorem writePayload_activate :
    writePayload Config.actionRequestReg Config.activatePayload =
      [0x03#8, 0xE8#8, 0x00#8, 0x03#8, 0x06#8, 0x01#8, 0x00#8, 0x00#8, 0x00#8, 0x00#8, 0x00#8] := by
  decide

theorem writePayload_deactivate :
    writePayload Config.actionRequestReg Config.deactivatePayload =
      [0x03#8, 0xE8#8, 0x00#8, 0x03#8, 0x06#8, 0x00#8, 0x00#8, 0x00#8, 0x00#8, 0x00#8, 0x00#8] := by
  decide

/-- The words of R54. -/
theorem activate_words :
    Pseudo.activate.words =
      [0x410#11, 0x503#11, 0x5E8#11, 0x500#11, 0x503#11, 0x506#11, 0x501#11, 0x500#11, 0x500#11,
        0x500#11, 0x500#11, 0x500#11, 0x600#11] := by
  rw [words_of_frameParts rfl, writePayload_activate]
  rfl

/-- The words of R55. -/
theorem deactivate_words :
    Pseudo.deactivate.words =
      [0x410#11, 0x503#11, 0x5E8#11, 0x500#11, 0x503#11, 0x506#11, 0x500#11, 0x500#11, 0x500#11,
        0x500#11, 0x500#11, 0x500#11, 0x600#11] := by
  rw [words_of_frameParts rfl, writePayload_deactivate]
  rfl

/-- Value `i` takes the bytes `2i` and `2i + 1` of the values' bytes (R32). -/
theorem bigEndianAll_append_getElem? {vs : List Word16} {i : Nat} {v : Word16}
    (h : vs[i]? = some v) (rest : List Byte) :
    (bigEndianAll vs ++ rest)[2 * i]? = some (hi8 v) ∧
      (bigEndianAll vs ++ rest)[2 * i + 1]? = some (lo8 v) := by
  induction vs generalizing i with
  | nil => cases h
  | cons u us ih =>
    cases i with
    | zero =>
      cases h
      exact ⟨rfl, rfl⟩
    | succ i => exact ih h

end Sys2Proof.Machine
end

section
/-! What the pseudo-instructions leave and emit (42_frames.md R50 to R56). -/

namespace Sys2Proof.Machine

/-! ## CRC16 (R50) -/

theorem perform_crc16 (bs : List Byte) (s : State) :
    perform (.pseudo (.crc16 bs)) s = .next (crcSequence bs s) := rfl

/-- Settles O49. -/
theorem crc16LeavesTheCrcOfItsBytes : Obligations.Crc16LeavesTheCrcOfItsBytes := by
  have hexample : computeCrc [0x09#8, 0x03#8, 0x07#8, 0xD0#8, 0x06#8] = 0x4694#16 :=
    computeCrcIsTheLeftFold.2.2
  refine ⟨fun bs s hm => ?_, fun bs s _ => status_crc _, fun bs s hm => ?_, crc16_words,
    fun s hm => ⟨_, perform_crc16 _ s, ?_⟩⟩
  · rw [perform_crc16, crcSequence_of_idle hm]
  · rw [perform_crc16, crcSequence_of_opened hm, record_eq]
  · rw [status_crc, crcSequence_of_idle hm, hexample]

/-! ## Frames in IDLE with a slave id (R51 to R55) -/

theorem perform_frame {p : Pseudo} {f : Byte} {ps : List Byte} (hfits : p.fits = true)
    (hp : p.frameParts = some (f, ps)) (s : State) :
    perform (.pseudo p) s = .next (frameSequence f ps s) := execPseudo_of_frameParts hp hfits s

/-- Where its operands fit, a frame pseudo-instruction emits the frame the encoder lays out, and
leaves the CRC of it. -/
theorem perform_frame_of_ready {p : Pseudo} {f : Byte} {ps : List Byte} {s : State}
    (hfits : p.fits = true) (hp : p.frameParts = some (f, ps)) (hm : s.mode = .idle)
    (hv : s.sidValid = true) :
    perform (.pseudo p) s =
      .next { s with
        crc := computeCrc (s.sid :: f :: ps)
        out := s.out ++ frameBytes s.sid f ps } := by
  rw [perform_frame hfits hp, frameSequence_of_ready hm hv]

/-- Settles O50. -/
theorem frameEmitsItsBytesAndTheirCrc : Obligations.FrameEmitsItsBytesAndTheirCrc := by
  refine ⟨fun f ps s hm hv => ⟨_, _, rfl, rfl, frameBytes_length s.sid f ps,
    perform_frame_of_ready rfl rfl hm hv⟩, fun f ps s hm hv => ?_,
    fun f ps => words_of_frameParts rfl, by decide +kernel⟩
  have hputs := execAll_puts ps [] (sof f s)
  rw [List.append_nil] at hputs
  refine ⟨_, (execAll_cons_of_next (exec_sof f s) _).trans hputs, ?_⟩
  rw [sof_of_ready hm hv, putAll_of_opened ps (openFrame_mode f s), openFrame_mode]

/-- Settles O51. -/
theorem readFrameEmitsSevenBytes : Obligations.ReadFrameEmitsSevenBytes :=
  ⟨fun a n s hm hv => ⟨_, _, rfl, rfl, rfl,
    perform_frame_of_ready (p := .readFrame a n) rfl rfl hm hv⟩, readFrame_words,
    by decide +kernel⟩

/-- ACTIVATE and DEACTIVATE are write frames of three values (R54, R55). -/
theorem frameParts_of_activate_or_deactivate {p : Pseudo} (h : p = .activate ∨ p = .deactivate) :
    p.fits = true ∧ ∃ vs, vs.length = 3 ∧
      p.frameParts = some (Config.fcWrite, writePayload Config.actionRequestReg vs) := by
  rcases h with rfl | rfl
  · exact ⟨rfl, _, rfl, rfl⟩
  · exact ⟨rfl, _, rfl, rfl⟩

/-- Settles O52. -/
theorem writeFrameEmitsNinePlusTwoNBytes : Obligations.WriteFrameEmitsNinePlusTwoNBytes := by
  refine ⟨fun a vs s hm hv h1 h127 => ?_, fun a vs h127 => writeFrame_words a h127,
    fun p s hp hm hv => ?_, by decide +kernel⟩
  · have hframe := perform_frame_of_ready (p := .writeFrame a vs)
      ((fitsWriteFrame_iff vs).2 ⟨h1, h127⟩) rfl hm hv
    have hlen := frameBytes_length s.sid Config.fcWrite (writePayload a vs)
    rw [writePayload_length] at hlen
    rw [writePayload_eq] at hframe hlen
    exact ⟨_, _, rfl, hi8_ofNat_of_lt (by omega), rfl, hlen.trans (by omega), hframe⟩
  · obtain ⟨hfits, vs, hvs, hparts⟩ := frameParts_of_activate_or_deactivate hp
    refine ⟨_, perform_frame_of_ready hfits hparts hm hv, ?_⟩
    rw [List.length_append, frameBytes_length, writePayload_length, hvs]

theorem performAll_cons_of_next {e : Input} {s t : State} (h : perform e s = .next t)
    (es : List Input) : performAll (e :: es) s = performAll es t := by rw [performAll, h]

/-- A frame leaves the mode and the slave id as they were, so issued again it emits the same bytes
(R55). -/
theorem performAll_frame_twice {p : Pseudo} {f : Byte} {ps : List Byte} {s : State}
    (hfits : p.fits = true) (hp : p.frameParts = some (f, ps)) (hm : s.mode = .idle)
    (hv : s.sidValid = true) :
    performAll [.pseudo p, .pseudo p] s =
      .next { s with
        crc := computeCrc (s.sid :: f :: ps)
        out := s.out ++ frameBytes s.sid f ps ++ frameBytes s.sid f ps } := by
  have hfirst := perform_frame_of_ready hfits hp hm hv
  have hsecond := perform_frame_of_ready (s := { s with
    crc := computeCrc (s.sid :: f :: ps), out := s.out ++ frameBytes s.sid f ps }) hfits hp hm hv
  exact (performAll_cons_of_next hfirst _).trans (performAll_cons_of_next hsecond [])

/-- Settles O53: the payloads computed once, and the CRCs of the examples of slave id 0x09. -/
theorem activateAndDeactivateFrames : Obligations.ActivateAndDeactivateFrames := by
  have hactivate {s : State} (hm : s.mode = .idle) (hv : s.sidValid = true) :=
    perform_frame_of_ready (p := .activate) rfl rfl hm hv
  have hdeactivate {s : State} (hm : s.mode = .idle) (hv : s.sidValid = true) :=
    perform_frame_of_ready (p := .deactivate) rfl rfl hm hv
  rw [writePayload_activate] at hactivate
  rw [writePayload_deactivate] at hdeactivate
  refine ⟨fun s hm hv => ⟨⟨_, _, rfl, rfl, hactivate hm hv⟩, _, _, rfl, rfl, hdeactivate hm hv,
    performAll_frame_twice rfl rfl hm hv⟩, activate_words, rfl, fun s hm hv hsid => ⟨?_, ?_⟩⟩
  · have hcrc : computeCrc [0x09#8, 0x10#8, 0x03#8, 0xE8#8, 0x00#8, 0x03#8, 0x06#8, 0x01#8, 0x00#8,
        0x00#8, 0x00#8, 0x00#8, 0x00#8] = 0xE172#16 := by decide +kernel
    rw [hactivate hm hv, hsid, frameBytes, sealFrame, Config.fcWrite, hcrc]
    rfl
  · have hcrc : computeCrc [0x09#8, 0x10#8, 0x03#8, 0xE8#8, 0x00#8, 0x03#8, 0x06#8, 0x00#8, 0x00#8,
        0x00#8, 0x00#8, 0x00#8, 0x00#8] = 0x3073#16 := by decide +kernel
    rw [hdeactivate hm hv, hsid, frameBytes, sealFrame, Config.fcWrite, hcrc]
    rfl

/-! ## Frames in the other states (R56) -/

/-- In OPEN the SOF errs, and the PUTs and the EOF extend and close the frame already open. -/
theorem frameSequence_of_opened {s : State} (hm : s.mode = .opened) (f : Byte) (ps : List Byte) :
    frameSequence f ps s =
      { s with
        out := s.out ++ ps ++ crcField (crcFold s.crc ps)
        crc := crcFold s.crc ps
        mode := .idle
        err := true
        ecause := if s.err then s.ecause else .badMode } := by
  have hrecord : (record .badMode s).mode = .opened := (record_mode _ s).trans hm
  rw [frameSequence, sof_of_opened hm, putAll_of_opened ps hrecord, eof_of_opened]
  · simp [closeFrame, emit, crcField]
  · exact hrecord

/-- Settles O54. -/
theorem framePreconditions : Obligations.FramePreconditions := by
  refine ⟨fun p f ps s hfits hp hm hv => ?_, fun p f ps s hfits hp hm => ⟨_, rfl, ?_⟩,
    fun p earlier body ps f s t hfits hp hm hout hcrc h => ?_⟩
  · rw [perform_frame hfits hp, frameSequence_of_unset hm hv, record_eq]
  · rw [perform_frame hfits hp, frameSequence_of_opened hm]
    rfl
  · rw [perform_frame hfits hp, frameSequence_of_opened hm] at h
    cases h
    simp [hout, hcrc, sealFrame, computeCrc_append]

end Sys2Proof.Machine
end

section
/-! The bytes of an emitted frame (42_frames.md R58, R59, R62). -/

namespace Sys2Proof.Machine

/-! ## The CRC of a whole frame (R62) -/

/-- Folding in its own low byte clears it, so that only zeros are shifted out. -/
theorem crcStep_lo8 (c : Word16) : crcStep c (lo8 c) = c >>> 8 := by
  have hlow (i : Nat) (hi : i < 8) : (c ^^^ (lo8 c).setWidth 16).getLsbD i = false := by
    have hi16 : i < 16 := by omega
    simp [lo8, hi, hi16]
  exact (crcShifts_of_low_zeros hlow).trans (xor_byte_shift c (lo8 c))

theorem crcStep_hi8 (c : Word16) : crcStep (c >>> 8) (hi8 c) = 0x0000#16 := by
  have hhigh : (hi8 c).setWidth 16 = c >>> 8 := by
    apply BitVec.eq_of_toNat_eq
    simp [hi8]
    omega
  rw [crcStep, BitVec.zeroExtend, hhigh, BitVec.xor_self]
  rfl

theorem computeCrc_sealFrame (body : List Byte) : computeCrc (sealFrame body) = 0x0000#16 := by
  rw [sealFrame, computeCrc_append, crcField, crcFold_cons, crcStep_lo8, crcFold_cons, crcStep_hi8,
    crcFold_nil]

/-- Settles O16: every frame emitted is a sealed one. -/
theorem crcOfAWholeFrameIsZero : Obligations.CrcOfAWholeFrameIsZero := by
  refine ⟨fun f ps s hm hv => ⟨_, _, perform_frame_of_ready rfl rfl hm hv, rfl,
    computeCrc_sealFrame _⟩, fun f x is s hm hv his => ?_⟩
  obtain ⟨e, k, hframe⟩ := execAll_sof_inside_eof hm hv f his x []
  exact ⟨_, _, hframe, rfl, computeCrc_sealFrame _⟩

/-! ## The last two bytes (R59) -/

theorem sealFrame_last (body : List Byte) :
    (sealFrame body)[(sealFrame body).length - 2]? =
        some (lo8 (computeCrc ((sealFrame body).take ((sealFrame body).length - 2)))) ∧
      (sealFrame body)[(sealFrame body).length - 1]? =
        some (hi8 (computeCrc ((sealFrame body).take ((sealFrame body).length - 2)))) := by
  have hlen : (sealFrame body).length - 2 = body.length := by simp [sealFrame]
  have hlast : (sealFrame body).length - 1 = body.length + 1 := by simp [sealFrame]
  have htake : (sealFrame body).take body.length = body := List.take_left
  rw [hlen, hlast, htake]
  simp [sealFrame, crcField]

/-- Settles O56: every frame emitted is a sealed one. -/
theorem lastTwoBytesAreTheCrc : Obligations.LastTwoBytesAreTheCrc := by
  intro p f ps s hfits hp hm hv
  have hlen := frameBytes_length s.sid f ps
  exact ⟨_, _, perform_frame_of_ready hfits hp hm hv, rfl, by omega, sealFrame_last _⟩

/-! ## The fields at their offsets (R58) -/

/-- Value `i` stands at offsets `7 + 2i` and `8 + 2i` of a write frame. -/
theorem frameBytes_writePayload_value (sid fc : Byte) (a : Word16) {vs : List Word16} {i : Nat}
    {v : Word16} (h : vs[i]? = some v) :
    (frameBytes sid fc (writePayload a vs))[7 + 2 * i]? = some (hi8 v) ∧
      (frameBytes sid fc (writePayload a vs))[8 + 2 * i]? = some (lo8 v) := by
  obtain ⟨hhi, hlo⟩ := bigEndianAll_append_getElem? h
    (crcField (computeCrc (sid :: fc :: writePayload a vs)))
  rw [Nat.add_comm 7, Nat.add_comm 8]
  exact ⟨hhi, hlo⟩

/-- Settles O55: the frame emitted is the encoding, whose first bytes and values are read off. -/
theorem addressAndValueOffsets : Obligations.AddressAndValueOffsets := by
  refine ⟨fun i s t hwf hi hm hv h => ?_, fun sid n a F hF => ?_, fun sid a vs F hF h1 h127 => ?_⟩
  · obtain ⟨u, F, hu, hout, henc, -⟩ := emittedFrameDecodesBack i s hwf hi hm hv
    cases hu.symm.trans h
    exact ⟨F, hout, henc⟩
  · cases hF
    exact ⟨rfl, rfl, ofBytes_hi8_lo8 a⟩
  · cases hF
    obtain ⟨hcount, -⟩ := writePayload_counts ((fitsWriteFrame_iff vs).2 ⟨h1, h127⟩)
    refine ⟨rfl, rfl, ofBytes_hi8_lo8 a, ⟨_, _, rfl, rfl, ?_⟩, fun i v hv => ?_⟩
    · rw [ofBytes_hi8_lo8, hcount]
    · obtain ⟨hhi, hlo⟩ := frameBytes_writePayload_value sid Config.fcWrite a hv
      exact ⟨hhi, hlo, ofBytes_hi8_lo8 v⟩

end Sys2Proof.Machine
end

section
/-! The assembler on pseudo-instructions (42_frames.md R50 to R55, R57). -/

namespace Sys2Proof.Machine

/-! ## Operands that fit -/

@[simp] theorem byteOperand_toNat (b : Byte) : byteOperand b.toNat = .ok b := by
  rw [byteOperand, if_pos b.isLt, BitVec.ofNat_toNat, BitVec.setWidth_eq]

@[simp] theorem word16Operand_toNat (w : Word16) : word16Operand w.toNat = .ok w := by
  rw [word16Operand, if_pos w.isLt, BitVec.ofNat_toNat, BitVec.setWidth_eq]

theorem operands_map {α : Type} {one : Nat → Except AsmRefusal α} {number : α → Nat}
    (h : ∀ a, one (number a) = .ok a) (as : List α) : operands one (as.map number) = .ok as := by
  induction as with
  | nil => rfl
  | cons a as ih => simp [operands, h, ih]

@[simp] theorem operands_byteOperand_toNat (bs : List Byte) :
    operands byteOperand (bs.map BitVec.toNat) = .ok bs := operands_map byteOperand_toNat bs

theorem writeValues_toNat {vs : List Word16} (h : fitsWriteFrame vs = true) :
    writeValues (vs.map BitVec.toNat) = .ok vs := by
  obtain ⟨h1, h127⟩ := (fitsWriteFrame_iff vs).1 h
  have h0 : ¬ vs.length = 0 := by omega
  have hmax : ¬ Config.writeMaxRegs < vs.length := Nat.not_lt.2 h127
  rw [writeValues, List.length_map, if_neg h0, if_neg hmax, operands_map word16Operand_toNat]

/-- Settles O12: an operand that fits is read back, and the words are those of the expansion. -/
theorem assemblerGivesTheExpansions : Obligations.AssemblerGivesTheExpansions := by
  refine ⟨fun bs => ?_, fun f ps => ?_, fun a n => ?_, fun a vs h1 h127 => ?_, ?_, ?_⟩
  · simp only [assemble, operands_byteOperand_toNat, crc16_words]
  · simp only [assemble, byteOperand_toNat, operands_byteOperand_toNat,
      words_of_frameParts (p := .frame f ps) rfl]
  · simp only [assemble, word16Operand_toNat, byteOperand_toNat, readFrame_words]
  · have hfits : fitsWriteFrame vs = true := (fitsWriteFrame_iff vs).2 ⟨h1, h127⟩
    simp only [assemble, word16Operand_toNat, writeValues_toNat hfits, writeFrame_words a h127]
  · rw [assemble, activate_words]
  · rw [assemble, deactivate_words]

/-! ## Operands that do not fit (R57) -/

theorem exists_byteOperand_eq_error_iff {n : Nat} : (∃ e, byteOperand n = .error e) ↔ 255 < n := by
  simp [byteOperand_eq_error_iff]

theorem exists_word16Operand_eq_error_iff {n : Nat} :
    (∃ e, word16Operand n = .error e) ↔ 0xFFFF < n := by
  have h (e : AsmRefusal) : word16Operand n = .error e ↔ 65536 ≤ n ∧ e = .word16DoesNotFit :=
    bounded_eq_error_iff
  simp [h, Nat.lt_iff_add_one_le]

/-- A list of operands is refused exactly where one of them is. -/
theorem exists_operands_eq_error_iff {α : Type} {one : Nat → Except AsmRefusal α}
    {ns : List Nat} :
    (∃ e, operands one ns = .error e) ↔ ∃ n ∈ ns, ∃ e, one n = .error e := by
  induction ns with
  | nil => simp [operands]
  | cons n ns ih =>
    rw [List.exists_mem_cons_iff, ← ih, operands]
    cases one n with
    | error e => simp
    | ok a => cases operands one ns <;> simp

theorem exists_writeValues_eq_error_iff {vs : List Nat} :
    (∃ e, writeValues vs = .error e) ↔
      (∃ v ∈ vs, 0xFFFF < v) ∨ vs.length = 0 ∨ 127 < vs.length := by
  simp only [← exists_word16Operand_eq_error_iff]
  rw [← exists_operands_eq_error_iff, writeValues, Config.writeMaxRegs]
  by_cases h0 : vs.length = 0
  · simp [h0]
  · by_cases h127 : 127 < vs.length
    · simp [h0, h127]
    · simp [h0, h127]

theorem exists_assemble_crc16_eq_error_iff {bs : List Nat} :
    (∃ e, assemble (.crc16 bs) = .error e) ↔ ∃ b ∈ bs, 255 < b := by
  simp only [← exists_byteOperand_eq_error_iff]
  rw [← exists_operands_eq_error_iff, assemble]
  cases operands byteOperand bs <;> simp

theorem exists_assemble_frame_eq_error_iff {f : Nat} {ps : List Nat} :
    (∃ e, assemble (.frame f ps) = .error e) ↔ 255 < f ∨ ∃ p ∈ ps, 255 < p := by
  simp only [← exists_byteOperand_eq_error_iff]
  rw [← exists_operands_eq_error_iff, assemble]
  cases byteOperand f with
  | error e => simp
  | ok b => cases operands byteOperand ps <;> simp

theorem exists_assemble_readFrame_eq_error_iff {a n : Nat} :
    (∃ e, assemble (.readFrame a n) = .error e) ↔ 0xFFFF < a ∨ 0xFF < n := by
  rw [← exists_word16Operand_eq_error_iff, ← exists_byteOperand_eq_error_iff, assemble]
  cases word16Operand a with
  | error e => simp
  | ok w => cases byteOperand n <;> simp

theorem exists_assemble_writeFrame_eq_error_iff {a : Nat} {vs : List Nat} :
    (∃ e, assemble (.writeFrame a vs) = .error e) ↔
      0xFFFF < a ∨ (∃ v ∈ vs, 0xFFFF < v) ∨ vs.length = 0 ∨ 127 < vs.length := by
  rw [← exists_word16Operand_eq_error_iff, ← exists_writeValues_eq_error_iff, assemble]
  cases word16Operand a with
  | error e => simp
  | ok w => cases writeValues vs <;> simp

/-- Settles O11: each clause from the checks of its operands; the words issued by hand are the FRAME
sequence. -/
theorem operandsThatDoNotFitAreRefused : Obligations.OperandsThatDoNotFitAreRefused := by
  refine ⟨fun _ => exists_assemble_crc16_eq_error_iff,
    fun _ _ => exists_assemble_frame_eq_error_iff,
    fun _ _ => exists_assemble_readFrame_eq_error_iff,
    fun _ _ => exists_assemble_writeFrame_eq_error_iff, fun _ => ⟨nofun, nofun⟩,
    fun f x ps s hm hv => ⟨_, execAll_sof_puts_eof f x ps s, ?_⟩⟩
  rw [frameSequence_of_ready hm hv]
  rfl

/-! ## The write frame instruction (R57, log 9) -/

theorem exists_exec_eq_refused_iff (i : Instr) (s : State) :
    (∃ r, exec i s = .refused r) ↔ i.wf = false := by
  cases i with
  | writeMultipleFrame a vs =>
    cases hfits : fitsWriteFrame vs with
    | true =>
      have hexec : exec (.writeMultipleFrame a vs) s = .next _ :=
        execWriteMultipleFrame_of_fits hfits a s
      simp [hexec, Instr.wf, hfits]
    | false => exact iff_of_true (execWriteMultipleFrame_of_unfit hfits a s) hfits
  | _ => exact iff_of_false nofun nofun

/-- Settles O60. -/
theorem onlyTheWriteFrameThatDoesNotFitIsRefused :
    Obligations.OnlyTheWriteFrameThatDoesNotFitIsRefused := by
  refine ⟨fun a s => rfl, fun a vs s h => ?_, exists_exec_eq_refused_iff⟩
  have h0 : ¬ vs.length = 0 := by omega
  rw [exec, execWriteMultipleFrame, if_neg h0, Config.writeMaxRegs, if_pos h]

end Sys2Proof.Machine
end

section
/-! The errors (60_exceptions.md R63 to R67): exactly when each is raised, that the commands after an
error run as after a NOP, that no frame is open without a slave id, and that only a reset clears an
error. -/

namespace Sys2Proof.Machine

/-! ## Exactly when each error is raised (R63) -/

section
variable {i : Instr} {k : Cause} {s : State}

theorem checkIdle_eq_some_iff : checkIdle s = some k ↔ s.mode = .opened ∧ k = .badMode := by
  cases hm : s.mode <;> simp [checkIdle, hm, eq_comm (a := k)]

theorem checkOpen_eq_some_iff : checkOpen s = some k ↔ s.mode = .idle ∧ k = .badMode := by
  cases hm : s.mode <;> simp [checkOpen, hm, eq_comm (a := k)]

theorem checkSof_eq_some_iff :
    checkSof s = some k ↔
      (s.mode = .opened ∧ k = .badMode) ∨
      (s.mode = .idle ∧ s.sidValid = false ∧ k = .sidUnset) := by
  cases hm : s.mode with
  | opened => simp [checkSof_of_opened hm, eq_comm (a := k)]
  | idle =>
    cases hv : s.sidValid with
    | false => simp [checkSof_of_unset hm hv, eq_comm (a := k)]
    | true => simp [checkSof_of_ready hm hv]

theorem raises_reservedOp_iff : raises i s = some .reservedOp ↔ ∃ x, i = .reserved x := by
  cases i <;> simp [raises, checkIdle_eq_some_iff, checkOpen_eq_some_iff, checkSof_eq_some_iff]

theorem raises_badMode_iff :
    raises i s = some .badMode ↔
      (s.mode = .opened ∧ ∃ x, i = .setsid x ∨ i = .crcinit x ∨ i = .crcfeed x ∨ i = .sof x) ∨
      (s.mode = .idle ∧ ∃ x, i = .put x ∨ i = .eof x) := by
  cases i <;> simp [raises, checkIdle_eq_some_iff, checkOpen_eq_some_iff, checkSof_eq_some_iff]

theorem raises_sidUnset_iff :
    raises i s = some .sidUnset ↔ s.mode = .idle ∧ s.sidValid = false ∧ ∃ x, i = .sof x := by
  cases i <;> simp [raises, checkIdle_eq_some_iff, checkOpen_eq_some_iff, checkSof_eq_some_iff]

/-- A frame raises no error of its own; the commands of its expansion do (R56). -/
theorem isCommand_of_raises (hk : raises i s = some k) : isCommand i = true := by
  cases i with
  | readHoldingFrame a n => cases hk
  | writeMultipleFrame a vs => cases hk
  | _ => rfl

/-- From a state with no error recorded a command records what it raises, and `err` with it. -/
theorem exec_records_raises {t : State} (hi : isCommand i = true) (herr : s.err = false)
    (hcause : s.ecause = .none) (h : exec i s = .next t) :
    (∀ k, k ≠ .none → (t.ecause = k ↔ raises i s = some k)) ∧ (t.err = false ↔ t.ecause = .none) := by
  rcases exec_cases hi h with ⟨k, hk, rfl⟩ | ⟨hn, rfl⟩
  · have hne : k ≠ .none := fun hnone => raises_ne_noCause i s (hnone ▸ hk)
    simp [herr, hk, hne]
  · simp [herr, hcause, hn, eq_comm]

end

/-- Settles O26. -/
theorem errorsAreExactlyTheTable : Obligations.ErrorsAreExactlyTheTable := by
  refine ⟨⟨rfl, rfl, rfl, rfl⟩, fun i s hi herr hcause => ?_⟩
  obtain ⟨t, ht, -, -⟩ := exec_completes hi s
  obtain ⟨hrecorded, herrIff⟩ := exec_records_raises hi herr hcause ht
  refine ⟨t, ht, (hrecorded .reservedOp nofun).trans raises_reservedOp_iff,
    (hrecorded .badMode nofun).trans raises_badMode_iff,
    (hrecorded .sidUnset nofun).trans raises_sidUnset_iff, herrIff, fun hne => ?_⟩
  have hnext := ht.symm.trans (exec_of_raises hi ((hrecorded _ hne).1 rfl))
  simpa [herr] using hnext

/-! ## The commands after an error run as after a NOP (R64) -/

theorem sameButError_withError (e : Bool) (k : Cause) (s : State) :
    SameButError { s with err := e, ecause := k } s := rfl

theorem SameButError.symm {s t : State} (h : SameButError s t) : SameButError t s := by
  rw [SameButError] at h
  rw [h, SameButError]

section
variable {s t : State} (h : SameButError s t)
include h

/-- No command reads `err` or `ecause`. -/
theorem sameButError_command {i : Instr} {u v : State} (hi : isCommand i = true)
    (hu : exec i s = .next u) (hv : exec i t = .next v) : SameButError u v := by
  rw [h] at hv
  have hvu : SameButError v u := (command_without_error_read hi hu hv).symm
  exact hvu.symm

theorem sameButError_putAll (ps : List Byte) : SameButError (putAll ps s) (putAll ps t) := by
  induction ps generalizing s t with
  | nil => exact h
  | cons p ps ih => exact ih (sameButError_command h (i := .put p) rfl rfl rfl)

theorem sameButError_frameSequence (fc : Byte) (payload : List Byte) :
    SameButError (frameSequence fc payload s) (frameSequence fc payload t) :=
  have hsof : SameButError (sof fc s) (sof fc t) :=
    sameButError_command h (i := .sof fc) rfl rfl rfl
  sameButError_command (sameButError_putAll hsof payload) (i := .eof 0#8) rfl rfl rfl

/-- Whether an instruction is refused does not depend on the error either. -/
theorem exec_cases_of_sameButError (i : Instr) :
    (∃ r, exec i s = .refused r ∧ exec i t = .refused r) ∨
      ∃ u v, exec i s = .next u ∧ exec i t = .next v ∧ SameButError u v := by
  by_cases hi : isCommand i = true
  · exact .inr ⟨_, _, exec_of_command hi s, exec_of_command hi t,
      sameButError_command h hi (exec_of_command hi s) (exec_of_command hi t)⟩
  · cases i with
    | readHoldingFrame a n => exact .inr ⟨_, _, rfl, rfl, sameButError_frameSequence h _ _⟩
    | writeMultipleFrame a vs =>
      rcases execWriteMultipleFrame_uniform a vs with ⟨r, hr⟩ | hrun
      · exact .inl ⟨r, hr s, hr t⟩
      · exact .inr ⟨_, _, hrun s, hrun t, sameButError_frameSequence h _ _⟩
    | _ => exact absurd rfl hi

theorem sameButError_execAll (is : List Instr) :
    OutcomesRelated SameButError (execAll is s) (execAll is t) := by
  induction is generalizing s t with
  | nil => exact h
  | cons i is ih =>
    rcases exec_cases_of_sameButError h i with ⟨r, hs, ht⟩ | ⟨u, v, hs, ht, huv⟩
    · simp [execAll, hs, ht, OutcomesRelated]
    · rw [execAll_cons_of_next hs, execAll_cons_of_next ht]
      exact ih huv

end

/-- Settles O27: the states after the error and after the NOP differ in the error alone. -/
theorem errorIsRecordedAndExecutionGoesOn : Obligations.ErrorIsRecordedAndExecutionGoesOn := by
  refine ⟨fun i k s hk => exec_of_raises (isCommand_of_raises hk) hk, fun i k x is s hk => ?_⟩
  have hnop : exec (.nop x) s = .next s := rfl
  rw [execAll_cons_of_next (exec_of_raises (isCommand_of_raises hk) hk),
    execAll_cons_of_next hnop]
  exact sameButError_execAll (sameButError_withError _ _ s) is

/-! ## The order of the checks, and OPEN without a slave id (R65) -/

/-- The combination that R65 says cannot arise. -/
def OpenWithoutSid (s : State) : Prop := s.mode = .opened ∧ s.sidValid = false

theorem not_openWithoutSid_of_idle {s : State} (hm : s.mode = .idle) : ¬ OpenWithoutSid s :=
  fun hs => nomatch hm.symm.trans hs.1

/-- SOF alone opens a frame, and it runs only with a slave id; no command takes the slave id back. -/
theorem not_openWithoutSid_keptByCommands : KeptByCommands fun s => ¬ OpenWithoutSid s := by
  intro i s t hi h hs
  rcases exec_cases hi h with ⟨k, -, rfl⟩ | ⟨hn, rfl⟩
  · simpa [OpenWithoutSid] using hs
  · cases i with
    | setsid d => exact fun hopen => nomatch hopen.2
    | sof d =>
      have hv : s.sidValid = true := (checkSof_eq_none_iff.1 hn).2
      exact fun hopen => nomatch hv.symm.trans hopen.2
    | eof x => exact not_openWithoutSid_of_idle rfl
    | _ => exact hs

/-- Settles O28. -/
theorem errorPriority : Obligations.ErrorPriority := by
  refine ⟨fun d s => ⟨rfl, checkSof_of_opened, checkSof_of_unset, checkSof_of_ready⟩,
    fun i k s hk => exec_of_raises (isCommand_of_raises hk) hk, not_openWithoutSid_of_idle rfl,
    fun s t hs h => ?_⟩
  exact step_keeps (P := fun u => ¬ OpenWithoutSid u) (fun _ _ hu => hu)
    not_openWithoutSid_keptByCommands (fun u hu => by simpa [OpenWithoutSid] using hu)
    (fun _ _ => not_openWithoutSid_of_idle rfl) h hs

/-! ## Only a reset clears an error (R67) -/

theorem recordedError_keptByCommands (k : Cause) :
    KeptByCommands fun s => s.err = true ∧ s.ecause = k := by
  intro i s t hi h ⟨herr, hcause⟩
  rcases exec_cases hi h with ⟨j, -, rfl⟩ | ⟨-, rfl⟩ <;> simp [herr, hcause]

/-- Settles O29, the first clause by what each input but a reset does. -/
theorem onlyResetClearsAnError : Obligations.OnlyResetClearsAnError := by
  refine ⟨fun s t h herr hreset => ?_, fun s t rest hin h => ?_⟩
  · have hkept := recordedError_keptByCommands s.ecause
    rcases step_cases h with ⟨-, rfl⟩ | ⟨w, rest, -, hw⟩ | ⟨p, rest, -, hp⟩ | ⟨rest, -, rfl⟩ |
      ⟨rest, hin, -⟩
    · exact ⟨herr, rfl⟩
    · exact exec_keeps hkept hw ⟨herr, rfl⟩
    · exact execPseudo_keeps hkept hp ⟨herr, rfl⟩
    · simp [herr]
    · simp [hin] at hreset
  · cases (step_of_input hin).symm.trans h
    exact ⟨rfl, rfl⟩

end Sys2Proof.Machine
end

section
/-! Runs of commands and of inputs, one after another: a run splits where its list splits, and what
every command keeps, a run of instructions keeps. -/

namespace Sys2Proof.Machine

/-- A run that completes completes its first instruction and then the others. -/
theorem execAll_cons_eq_next_iff {i : Instr} {is : List Instr} {s t : State} :
    execAll (i :: is) s = .next t ↔ ∃ u, exec i s = .next u ∧ execAll is u = .next t := by
  cases h : exec i s <;> simp [execAll, h]

theorem execAll_append_of_next {is : List Instr} {s u : State} (h : execAll is s = .next u)
    (js : List Instr) : execAll (is ++ js) s = execAll js u := by
  induction is generalizing s with
  | nil =>
    cases h
    rfl
  | cons i is ih =>
    obtain ⟨r, hr, hrest⟩ := execAll_cons_eq_next_iff.1 h
    exact (execAll_cons_of_next hr (is ++ js)).trans (ih hrest)

theorem execAll_keeps {P : State → Prop} (hP : KeptByCommands P) {is : List Instr} {s t : State}
    (h : execAll is s = .next t) (hs : P s) : P t := by
  induction is generalizing s with
  | nil =>
    cases h
    exact hs
  | cons i is ih =>
    obtain ⟨u, hu, hrest⟩ := execAll_cons_eq_next_iff.1 h
    exact ih hrest (exec_keeps hP hu hs)

/-- A run of inputs that completes completes its first input and then the others. -/
theorem performAll_cons_eq_next_iff {e : Input} {es : List Input} {s t : State} :
    performAll (e :: es) s = .next t ↔ ∃ u, perform e s = .next u ∧ performAll es u = .next t := by
  cases h : perform e s <;> simp [performAll, h]

/-- An input performed is the step that takes it off the list (log 2). -/
theorem perform_eq_step (e : Input) (s : State) :
    perform e s = step { s with inbox := e :: s.inbox } := rfl

end Sys2Proof.Machine
end

section
/-! ERR = 0 and MODE = 0 at the end of a run of commands (70_reset_and_hazards.md R77). -/

namespace Sys2Proof.Machine

theorem clean_iff {s : State} : s.clean = true ↔ s.err = false ∧ s.mode = .idle := by
  simp [State.clean]

/-- An error anywhere in a run of commands stands at its end: it is recorded (60_exceptions.md R64),
and no command clears it (R67). -/
theorem execAll_err_of_raises {i : Instr} {k : Cause} {is : List Instr} {s t : State}
    (hk : raises i s = some k) (h : execAll (i :: is) s = .next t) : t.err = true := by
  rw [execAll_cons_of_next (exec_of_raises (isCommand_of_raises hk) hk)] at h
  exact (execAll_keeps (recordedError_keptByCommands _) h ⟨rfl, rfl⟩).1

/-- Settles O30. -/
theorem errZeroMeansEveryCommandRan : Obligations.ErrZeroMeansEveryCommandRan := by
  intro pre post i s u t _ hpre hall hclean
  obtain ⟨herr, hidle⟩ := clean_iff.1 hclean
  rw [execAll_append_of_next hpre] at hall
  refine ⟨Option.eq_none_iff_forall_ne_some.2 fun k hk => ?_, hidle⟩
  cases herr.symm.trans (execAll_err_of_raises hk hall)

end Sys2Proof.Machine
end

section
/-! Reset (70_reset_and_hazards.md R73 to R75): the state it leaves, the bytes it keeps, and the first
frame after it. -/

namespace Sys2Proof.Machine

/-! ## The state after a reset, and the command port while `rst` is 1 (R73) -/

theorem step_of_reset {s : State} {rest : List Input} (hin : s.inbox = .reset :: rest) :
    step s = .next (resetBlock { s with inbox := rest }) := step_of_input hin

theorem cmdReady_of_rst {t : Timing} {p : PortsIn} (h : p.rst = true) : cmdReady t p = false := by
  simp [cmdReady, h]

/-- Settles O35. -/
theorem resetState : Obligations.ResetState :=
  ⟨⟨rfl, rfl, rfl, rfl, rfl, status_reset⟩,
    fun _ _ hin => ⟨_, step_of_reset hin, rfl, rfl, rfl, rfl, rfl, status_resetBlock _, rfl⟩,
    fun _ _ _ _ hrst => ⟨cmdReady_of_rst hrst, accepts_of_rst hrst⟩⟩

/-! ## Emitted bytes stay and leave in order (R74) -/

theorem takenBound_keptByCommands : KeptByCommands fun s => s.taken ≤ s.out.length := by
  intro i s t hi h hs
  rw [exec_taken hi h]
  exact hs.trans (exec_out_prefix h).length_le

theorem takenBound_takeByte {s : State} (hs : s.taken ≤ s.out.length) :
    (takeByte s).taken ≤ (takeByte s).out.length := by
  by_cases hw : s.taken < s.out.length
  · rw [takeByte_of_waiting hw]
    exact hw
  · rwa [takeByte_of_not_waiting hw]

/-- No step transfers a byte that is not emitted (10_state.md R7). -/
theorem step_takenBound {s t : State} (hs : s.taken ≤ s.out.length) (h : step s = .next t) :
    t.taken ≤ t.out.length :=
  step_keeps (P := fun u => u.taken ≤ u.out.length) (fun _ _ hu => hu) takenBound_keptByCommands
    (fun _ => takenBound_takeByte) (fun _ hu => hu) h hs

theorem step_sent_prefix {s t : State} (hs : s.taken ≤ s.out.length) (h : step s = .next t) :
    s.sent <+: t.sent := by
  rcases step_sent hs h with hsent | ⟨b, rest, -, -, hsent⟩
  · rw [hsent]
  · rw [hsent]
    exact List.prefix_append _ _

/-- Any step, a reset too, only adds to the bytes emitted and to the bytes transferred. -/
theorem step_prefixes {s t : State} (hs : s.taken ≤ s.out.length) (h : step s = .next t) :
    s.out <+: t.out ∧ s.sent <+: t.sent ∧ t.taken ≤ t.out.length :=
  ⟨step_out_prefix h, step_sent_prefix hs h, step_takenBound hs h⟩

theorem perform_prefixes {e : Input} {s t : State} (hs : s.taken ≤ s.out.length)
    (h : perform e s = .next t) :
    s.out <+: t.out ∧ s.sent <+: t.sent ∧ t.taken ≤ t.out.length :=
  step_prefixes (s := { s with inbox := e :: s.inbox }) hs ((perform_eq_step e s).symm.trans h)

theorem performAll_prefixes {es : List Input} {s t : State} (hs : s.taken ≤ s.out.length)
    (h : performAll es s = .next t) : s.out <+: t.out ∧ s.sent <+: t.sent := by
  induction es generalizing s with
  | nil =>
    cases h
    exact ⟨List.prefix_refl _, List.prefix_refl _⟩
  | cons e es ih =>
    obtain ⟨u, hu, hrest⟩ := performAll_cons_eq_next_iff.1 h
    obtain ⟨hout, hsent, hbound⟩ := perform_prefixes hs hu
    obtain ⟨houtRest, hsentRest⟩ := ih hbound hrest
    exact ⟨hout.trans houtRest, hsent.trans hsentRest⟩

/-- In IDLE a SETSID and then a FRAME emit the frame of the slave id given, whatever the slave id
was. -/
theorem performAll_setsid_frame {s : State} (hm : s.mode = .idle) (v f : Byte) (ps : List Byte) :
    performAll [.cmd (cmdWord 1#3 v), .pseudo (.frame f ps)] s =
      .next { s with
        sid := v
        sidValid := true
        crc := computeCrc (v :: f :: ps)
        out := s.out ++ frameBytes v f ps } := by
  have hsetsid : perform (.cmd (cmdWord 1#3 v)) s = .next { s with sid := v, sidValid := true } := by
    rw [perform, decodeWord_setsid, exec_setsid_of_idle hm]
  have hframe := perform_frame_of_ready (p := .frame f ps)
    (s := { s with sid := v, sidValid := true }) rfl rfl hm rfl
  exact (performAll_cons_of_next hsetsid _).trans (performAll_cons_of_next hframe [])

/-- Settles O36. The frame after a reset follows directly because the reset closes the one left open
and keeps its bytes. -/
theorem resetKeepsEmittedBytes : Obligations.ResetKeepsEmittedBytes := by
  refine ⟨fun s t es hs h => ?_, fun s v f ps _ => ?_⟩
  · obtain ⟨hout, hsent⟩ := performAll_prefixes hs h
    exact ⟨hout, hsent, List.take_prefix t.taken t.out⟩
  · have hreset : perform .reset s = .next (resetBlock s) := rfl
    exact ⟨_, (performAll_cons_of_next hreset _).trans
      (performAll_setsid_frame (resetBlock_mode s) v f ps), rfl⟩

/-! ## The first frame after a reset (R75) -/

/-- Settles O37. -/
theorem setsidComesBeforeTheFirstFrame : Obligations.SetsidComesBeforeTheFirstFrame := by
  intro s v f ps bs
  have hm := resetBlock_mode s
  have hsof := checkSof_of_unset hm (resetBlock_sidValid s)
  refine ⟨exec_of_raises (i := .sof f) rfl hsof,
    ⟨_, performAll_setsid_frame hm v f ps, rfl, rfl⟩, resetBlock_crc s, ?_⟩
  rw [perform_crc16, crcSequence_of_idle hm]

end Sys2Proof.Machine
end

section
/-! STATUS in one cycle of the ports (70_reset_and_hazards.md R78; log 6). -/

namespace Sys2Proof.Machine

/-- The timing of a block that would accept a command and shows a waiting byte, with STATUS on the side
given (log 6). -/
def readyTiming (after : Bool) : Timing where
  ready := true
  shown := true
  statusAfter := after

theorem accepts_readyTiming {p : PortsIn} (hrst : p.rst = false) (hvalid : p.cmdValid = true)
    (after : Bool) : accepts (readyTiming after) p = true := by
  simp [accepts, cmdReady, readyTiming, hrst, hvalid]

/-- A cycle accepts a command or resets, or it is quiet. -/
theorem accepts_or_rst_or_quiet (t : Timing) (p : PortsIn) :
    (accepts t p = true ∨ p.rst = true) ∨ (accepts t p = false ∧ p.rst = false) := by
  cases accepts t p <;> cases p.rst <;> simp

theorem statusDuring_cases (after : Bool) (s t : State) :
    statusDuring after s t = s.status ∨ statusDuring after s t = t.status := by
  cases after with
  | false => exact .inl rfl
  | true => exact .inr rfl

/-- Settles O45: both sides of an acceptance or a reset are reached by the choice of `statusAfter`. -/
theorem statusInAnAcceptanceCycle : Obligations.StatusInAnAcceptanceCycle := by
  refine ⟨fun t p s next => ?_, fun _ _ _ _ => portsOut_status_of_quiet,
    fun p s next hrst hvalid => ?_, fun p s next hrst => ?_⟩
  · rcases accepts_or_rst_or_quiet t p with hchange | ⟨hno, hrst⟩
    · rw [portsOut_status_of_change hchange]
      exact (statusDuring_cases t.statusAfter s next).imp_right fun hafter => ⟨hchange, hafter⟩
    · exact .inl (portsOut_status_of_quiet hno hrst)
  · have haccepts := accepts_readyTiming hrst hvalid
    exact ⟨readyTiming false, readyTiming true, portsOut_status_of_change (.inl (haccepts false)),
      portsOut_status_of_change (.inl (haccepts true)), haccepts false, haccepts true⟩
  · exact ⟨readyTiming false, readyTiming true, portsOut_status_of_change (.inr hrst),
      portsOut_status_of_change (.inr hrst)⟩

end Sys2Proof.Machine
end
